-- ==== Sys2Proof/Word.lean ====
section
/-! DEFINITION. The word types of the machine: bytes and 16-bit words (00_scope.md R7). -/

namespace Sys2Proof

/-- A byte is 8 bits (00_scope.md R7). -/
abbrev Byte := BitVec 8

/-- Addresses, `SP`, `PC` and the register pairs are 16 bits (00_scope.md R7). -/
abbrev Word := BitVec 16

end Sys2Proof
end

