-- ==== Sys2Proof/Config.lean ====
section
/-! DEFINITION. What stays fixed while the machine runs and is not state: the free answer of the input-device
collaborator and the parameters of 00_scope.md R8. The spec's default values are in Machine/Tables.lean. -/

namespace Sys2Proof

/-- The answer of the input-device collaborator to a read of `0xFF00` (20_memory.md R108): the `n`-th query,
made with the selection bits `sel`, answers any 4 bits, under no law. A FREE VALUE: it has no body, so no proof
can use a value of it (log 3). -/
opaque Config.joypadAnswer : Nat → BitVec 2 → BitVec 4

/-- The two Bank Controller variants (20_memory.md R60; the type is declared here because the parameter
`typeTable` names it). -/
inductive Variant where
  | noBanking
  | bankSwitching
  deriving DecidableEq, Repr

/-- The parameters the model takes as arguments (00_scope.md R8). They are used at load, at power-on and by the
moves of the environment and the driver, never by an instruction (log 15). -/
structure Params where
  typeOff : Nat
  romszOff : Nat
  ramszOff : Nat
  typeTable : Byte → Option Variant
  romBankTable : Byte → Option Nat
  ramBankTable : Byte → Option Nat
  ioDefaults : Nat → Byte
  envWritable : List Word
  clockRate : Nat
  framesPerSecond : Nat
  speedMultiplier : Nat

end Sys2Proof
end

