-- ==== Sys2Proof/Machine/State.lean ====
section
/-! DEFINITION. The state of the block as plain data (10_state.md), its reset values (70_reset_and_hazards.md R360)
and the reasons a step or a load can stop (60_exceptions.md R310). -/

namespace Sys2Proof.Machine

/-- A store of bytes: (address, byte) pairs in the canonical form of `Memory.wf` (Machine/Memory.lean). -/
abbrev Memory := List Host.Cell

/-- `run_state` (10_state.md R28): exactly two states. -/
inductive RunState where
  | running
  | halted
  deriving DecidableEq, Repr

/-- `bank_mode` (10_state.md R43). -/
inductive BankMode where
  | romBanking
  | ramBanking
  deriving DecidableEq, Repr

/-- A byte buffer of the cartridge: its length and its bytes (10_state.md R38, R39). -/
structure Buffer where
  len : Nat
  cells : Memory
  deriving DecidableEq, Repr

/-- The Cartridge and its Bank Controller in one record (10_state.md R36 to R44; R37 allows flattening). For a
No-Banking cartridge the last four fields are not state (R44): they hold their reset values (log 7). -/
structure Cartridge where
  variant : Variant
  romBankCount : Nat
  ramBankCount : Nat
  rom : Buffer
  ram : Buffer
  romBank : Byte
  ramBank : BitVec 2
  ramEnable : Bool
  bankMode : BankMode
  deriving DecidableEq, Repr

/-- The eight general registers, `SP` and `PC` (10_state.md R20, R23, R24). -/
structure Regs where
  a : Byte
  f : Byte
  b : Byte
  c : Byte
  d : Byte
  e : Byte
  h : Byte
  l : Byte
  sp : Word
  pc : Word
  deriving DecidableEq, Repr

/-- The state of the block. `IF` and `IE` are bytes of `flat` (10_state.md R34). The last two fields are the
model's own: `cycles` is the cost the last `step()` returned (log 2), `joypQueries` counts the joypad answers
given so far (log 3). -/
structure State where
  regs : Regs
  ime : Bool
  imePending : Bool
  runState : RunState
  flat : Memory
  dirty : Bool
  joypSelect : BitVec 2
  serialByte : Byte
  cart : Cartridge
  divCounter : Nat
  timerCounter : Nat
  cycles : Nat
  joypQueries : Nat
  deriving DecidableEq, Repr

/-- The error taxonomy of the block (60_exceptions.md R310). -/
inductive Fault where
  /-- Raised by an instruction step whose first byte is undefined (R311). Terminal, as the spec says; safe. -/
  | invalidOpcode (op : Byte)
  /-- Raised by a cartridge access whose index is outside its buffer (R312). Terminal, as the spec says; safe. -/
  | bankIndexOutOfRange (i : Nat)
  /-- Raised by `load` alone, never by a step (R313): the header byte that has no table entry. Safe. -/
  | unsupportedCartridgeType (b : Byte)
  /-- The persistence collaborator's failure (R314): reported by the host's flush, never by a step. Safe. -/
  | ioError
  deriving DecidableEq, Repr

/-- What the model gives no meaning to. -/
inductive Refusal where
  /-- Raised by an arm of `exec` that has no meaning yet; no arm is left so. Safe. -/
  | notModelled (mnemonic : String)
  /-- Raised by `load` alone: the image is no launch state because of its length (20_memory.md R71 step 3,
  93_implementation_defined.md U21). Safe. -/
  | launchRomLength
  /-- Raised by `load` alone: the save is no launch state because of its length (93_implementation_defined.md
  U22). Safe. -/
  | launchSaveLength
  deriving DecidableEq, Repr

/-- The outcome of an operation of the block that yields a value. -/
abbrev Result (α : Type) := Host.Outcome α Fault Refusal

/-- The register values after power-on (70_reset_and_hazards.md R360). -/
def Regs.reset : Regs where
  a := 0x01
  f := 0xB0
  b := 0x00
  c := 0x13
  d := 0x00
  e := 0xD8
  h := 0x01
  l := 0x4D
  sp := 0xFFFE
  pc := 0x0100

/-- The cartridge in the slot at `State.reset`: a No-Banking image of 32768 bytes, every one of them `0x00`, with
the bank registers at their reset values (70_reset_and_hazards.md R360). The spec has no default image: DESIGN
CHOICE (log 1). -/
def Cartridge.blank : Cartridge where
  variant := .noBanking
  romBankCount := 2
  ramBankCount := 0
  rom := ⟨0x8000, []⟩
  ram := ⟨0, []⟩
  romBank := 1
  ramBank := 0
  ramEnable := false
  bankMode := .romBanking

/-- The state right after power-on (70_reset_and_hazards.md R360 to R363) with the blank cartridge. -/
def State.reset : State where
  regs := Regs.reset
  ime := false
  imePending := false
  runState := .running
  flat := []
  dirty := false
  joypSelect := 0
  serialByte := 0
  cart := Cartridge.blank
  divCounter := 0
  timerCounter := 0
  cycles := 0
  joypQueries := 0

end Sys2Proof.Machine
end

