-- ==== Sys2Proof/Machine/Tables.lean ====
section
/-! DEFINITION. The spec's default parameters (00_scope.md R8): the header tables (20_memory.md R70, R73 to R75),
the reset content of the I/O page (70_reset_and_hazards.md R362) and the driver's configuration. -/

namespace Sys2Proof.Machine

/-- `type_table` (20_memory.md R73). -/
def typeTable (b : Byte) : Option Variant :=
  match b.toNat with
  | 0 => some .noBanking
  | 1 => some .bankSwitching
  | 2 => some .bankSwitching
  | 3 => some .bankSwitching
  | _ => none

/-- `rom_bank_table` (20_memory.md R74). -/
def romBankTable (b : Byte) : Option Nat :=
  match b.toNat with
  | 0 => some 2
  | 1 => some 4
  | 2 => some 8
  | 3 => some 16
  | 4 => some 32
  | 5 => some 64
  | 6 => some 128
  | 7 => some 256
  | 8 => some 512
  | _ => none

/-- `ram_bank_table` (20_memory.md R75). -/
def ramBankTable (b : Byte) : Option Nat :=
  match b.toNat with
  | 0 => some 0
  | 1 => some 1
  | 2 => some 1
  | 3 => some 4
  | 4 => some 16
  | 5 => some 8
  | _ => none

/-- The reset table of the I/O page (70_reset_and_hazards.md R362). -/
def ioResetTable : List Host.Cell :=
  [(0xFF05, 0x00), (0xFF06, 0x00), (0xFF07, 0x00), (0xFF10, 0x80), (0xFF11, 0xBF), (0xFF12, 0xF3), (0xFF14, 0xBF),
    (0xFF16, 0x3F), (0xFF17, 0x00), (0xFF19, 0xBF)]
  ++ [(0xFF1A, 0x7F), (0xFF1B, 0xFF), (0xFF1C, 0x9F), (0xFF1E, 0xBF), (0xFF20, 0xFF), (0xFF21, 0x00), (0xFF22, 0x00),
    (0xFF23, 0xBF), (0xFF24, 0x77), (0xFF25, 0xF3), (0xFF26, 0xF1)]
  ++ [(0xFF40, 0x91), (0xFF42, 0x00), (0xFF43, 0x00), (0xFF45, 0x00), (0xFF47, 0xFC), (0xFF48, 0xFF), (0xFF49, 0xFF),
    (0xFF4A, 0x00), (0xFF4B, 0x00), (0xFFFF, 0x00)]

/-- Look an address up in a table of cells; an address that is not in it gives `0x00`. -/
def tableByte : List Host.Cell → Nat → Byte
  | [], _ => 0x00
  | (k, v) :: rest, a => if k = a then v else tableByte rest a

/-- `io_defaults` (70_reset_and_hazards.md R362): every byte of the page that is not in the table resets to
`0x00`. -/
def ioDefaults (a : Nat) : Byte := tableByte ioResetTable a

end Sys2Proof.Machine

namespace Sys2Proof

/-- The spec's default parameters (00_scope.md R8). -/
def Params.spec : Params where
  typeOff := 0x0147
  romszOff := 0x0148
  ramszOff := 0x0149
  typeTable := Machine.typeTable
  romBankTable := Machine.romBankTable
  ramBankTable := Machine.ramBankTable
  ioDefaults := Machine.ioDefaults
  envWritable := []
  clockRate := 4194304
  framesPerSecond := 60
  speedMultiplier := 0

end Sys2Proof
end

