-- ==== Sys2Proof/Machine/Memory.lean ====
section
/-! DEFINITION. The three byte stores of the block in one canonical form: addresses strictly rising, and no entry
equal to what an unlisted address reads as. -/

namespace Sys2Proof.Machine

/-- The backing stores: the Router's flat array (10_state.md R30), the ROM buffer (R38), the RAM buffer (R39). -/
inductive Space where
  | flat
  | rom
  | ram
  deriving DecidableEq, Repr

/-- What an unlisted address of a store reads as: its content at power-on (70_reset_and_hazards.md R361 and R362 for
`flat`, R360 for `ram`; a ROM lists its bytes other than `0x00`). See log 13. -/
def unlisted (sp : Space) (a : Nat) : Byte :=
  match sp with
  | .flat => if 0xFF00 ≤ a then ioDefaults a else 0x00
  | .rom => 0x00
  | .ram => 0x00

/-- The byte at an address of a store. -/
def loadCell (sp : Space) : Memory → Nat → Byte
  | [], a => unlisted sp a
  | (k, v) :: rest, a => if k = a then v else loadCell sp rest a

/-- Put a cell before the cells of `rest`, unless it holds what an unlisted address reads as. -/
def consCell (sp : Space) (a : Nat) (v : Byte) (rest : Memory) : Memory :=
  if v = unlisted sp a then rest else (a, v) :: rest

/-- Store a byte at an address, keeping the canonical form. -/
def storeCell (sp : Space) : Memory → Nat → Byte → Memory
  | [], a, v => consCell sp a v []
  | (k, w) :: rest, a, v =>
    if a < k then consCell sp a v ((k, w) :: rest)
    else if a = k then consCell sp a v rest
    else (k, w) :: storeCell sp rest a v

/-- The canonical form from address `lo` up: addresses at least `lo` and strictly rising, no entry equal to the
unlisted value. -/
def Memory.wfFrom (sp : Space) : Nat → Memory → Bool
  | _, [] => true
  | lo, (k, v) :: rest => decide (lo ≤ k) && decide (v ≠ unlisted sp k) && Memory.wfFrom sp (k + 1) rest

/-- The canonical form of a store. -/
def Memory.wf (sp : Space) (m : Memory) : Bool := Memory.wfFrom sp 0 m

/-- Every listed address is below `n`. -/
def Memory.below (n : Nat) (m : Memory) : Bool := m.all fun cell => decide (cell.1 < n)

/-- A buffer from the list of its bytes (20_memory.md R78: the host supplies a byte buffer). -/
def cellsOfBytes (sp : Space) : Nat → List Byte → Memory
  | _, [] => []
  | a, v :: rest => consCell sp a v (cellsOfBytes sp (a + 1) rest)

/-- A buffer from the list of its bytes. -/
def bufferOfBytes (sp : Space) (bytes : List Byte) : Buffer := ⟨bytes.length, cellsOfBytes sp 0 bytes⟩

/-- The bytes of a buffer in order. -/
def bytesOfBuffer (sp : Space) (b : Buffer) : List Byte := (List.range b.len).map (loadCell sp b.cells)

end Sys2Proof.Machine
end

