-- ==== Sys2Proof/Machine/BankController.lean ====
section
/-! DEFINITION. The Bank Controller, both variants (20_memory.md R60 to R66, R80 to R90). Addresses are `Nat`; the
Router guarantees their ranges (R60). -/

namespace Sys2Proof.Machine

/-- Sequence two operations: the second runs on the value of the first; a fault or a refusal ends both
(60_exceptions.md R316). -/
def chain {α β : Type} (r : Result α) (f : α → Result β) : Result β :=
  match r with
  | .next x => f x
  | .fault e => .fault e
  | .refused e => .refused e

/-- Read a buffer: the index is compared with the length first (20_memory.md R90). -/
def bufferRead (sp : Space) (b : Buffer) (i : Nat) : Result Byte :=
  if i < b.len then .next (loadCell sp b.cells i) else .fault (.bankIndexOutOfRange i)

/-- Write a buffer: the index is compared with the length first (20_memory.md R90). -/
def bufferWrite (sp : Space) (b : Buffer) (i : Nat) (v : Byte) : Result Buffer :=
  if i < b.len then .next { b with cells := storeCell sp b.cells i v } else .fault (.bankIndexOutOfRange i)

/-- `eff_rom_bank` (20_memory.md R85). -/
def effRomBank (c : Cartridge) : Nat :=
  let m := c.romBank.toNat % c.romBankCount
  if m = 0 then 1 else m

/-- `eff_ram_bank` (20_memory.md R85). -/
def effRamBank (c : Cartridge) : Nat := c.ramBank.toNat % c.ramBankCount

/-- The ROM buffer index of an address of the switchable window (R62, R86). -/
def romBankedIndex (c : Cartridge) (a : Nat) : Nat :=
  match c.variant with
  | .noBanking => a
  | .bankSwitching => (a - 0x4000) + effRomBank c * 0x4000

/-- The RAM buffer index of an address of the RAM window (R87). -/
def ramBankedIndex (c : Cartridge) (a : Nat) : Nat := (a - 0xA000) + effRamBank c * 0x2000

/-- `read_rom_fixed(a)` (R61, R80). -/
def readRomFixed (c : Cartridge) (a : Nat) : Result Byte := bufferRead .rom c.rom a

/-- `read_rom_banked(a)` (R62, R86). -/
def readRomBanked (c : Cartridge) (a : Nat) : Result Byte := bufferRead .rom c.rom (romBankedIndex c a)

/-- `read_ram_banked(a)` (R63, R87). With no RAM banks the reported index is `a - 0xA000` (60_exceptions.md R312). -/
def readRamBanked (c : Cartridge) (a : Nat) : Result Byte :=
  match c.variant with
  | .noBanking => .next 0x00
  | .bankSwitching =>
    if c.ramEnable then
      if c.ramBankCount = 0 then .fault (.bankIndexOutOfRange (a - 0xA000))
      else bufferRead .ram c.ram (ramBankedIndex c a)
    else .next 0x00

/-- What a cartridge RAM write did (R60: `stored` or `noop`). -/
inductive RamWrite where
  | stored (c : Cartridge)
  | noop
  deriving DecidableEq, Repr

/-- `write_ram_banked(a, v)` (R64, R88). -/
def writeRamBanked (c : Cartridge) (a : Nat) (v : Byte) : Result RamWrite :=
  match c.variant with
  | .noBanking => .next .noop
  | .bankSwitching =>
    if c.ramEnable then
      if c.ramBankCount = 0 then .fault (.bankIndexOutOfRange (a - 0xA000))
      else chain (bufferWrite .ram c.ram (ramBankedIndex c a) v) fun b => .next (.stored { c with ram := b })
    else .next .noop

/-- A ROM bank register value, 0 replaced by 1 (R82, R83, R84). -/
def romBankForced (v : Byte) : Byte := if v = 0 then 1 else v

/-- Control write below `0x2000` (R81). -/
def controlRamEnable (c : Cartridge) (v : Byte) : Cartridge :=
  if v.extractLsb' 0 4 = 0xA then { c with ramEnable := true }
  else if v.extractLsb' 0 4 = 0x0 then { c with ramEnable := false }
  else c

/-- Control write to `[0x2000, 0x4000)` (R82). -/
def controlRomLow (c : Cartridge) (v : Byte) : Cartridge :=
  { c with romBank := romBankForced ((c.romBank &&& 0xE0) ||| (v &&& 0x1F)) }

/-- Control write to `[0x4000, 0x6000)` (R83). -/
def controlUpper (c : Cartridge) (v : Byte) : Cartridge :=
  match c.bankMode with
  | .romBanking => { c with romBank := romBankForced ((c.romBank &&& 0x1F) ||| (v &&& 0xE0)) }
  | .ramBanking => { c with ramBank := v.extractLsb' 0 2 }

/-- Control write to `[0x6000, 0x8000)` (R84). -/
def controlMode (c : Cartridge) (v : Byte) : Cartridge :=
  if v.getLsbD 0 then { c with bankMode := .ramBanking, romBank := romBankForced (c.romBank &&& 0x1F) }
  else { c with bankMode := .romBanking, ramBank := 0 }

/-- `handle_control_write(a, v)` (R65, R81 to R84). -/
def handleControlWrite (c : Cartridge) (a : Nat) (v : Byte) : Cartridge :=
  match c.variant with
  | .noBanking => c
  | .bankSwitching =>
    if a < 0x2000 then controlRamEnable c v
    else if a < 0x4000 then controlRomLow c v
    else if a < 0x6000 then controlUpper c v
    else controlMode c v

/-- `export_ram()` (R66, R89). -/
def exportRam (c : Cartridge) : List Byte :=
  match c.variant with
  | .noBanking => []
  | .bankSwitching => bytesOfBuffer .ram c.ram

end Sys2Proof.Machine
end

