-- ==== Sys2Proof/Machine/Bits.lean ====
section
/-! DEFINITION. Bit slices, byte order and extensions (00_scope.md R9, R10; 20_memory.md R126). -/

namespace Sys2Proof.Machine

/-- `v[15:8]`. -/
def hiByte (w : Word) : Byte := w.extractLsb' 8 8

/-- `v[7:0]`. -/
def loByte (w : Word) : Byte := w.extractLsb' 0 8

/-- `hi ++ lo`: the first-named byte is bits 15 to 8 (00_scope.md R9, 10_state.md R21). -/
def joinBytes (hi lo : Byte) : Word := hi ++ lo

/-- `sext_16(v)` (00_scope.md R10). -/
def sext16 (e : Byte) : Word := e.signExtend 16

/-- `zext_16(v)` (00_scope.md R10). -/
def zext16 (n : Byte) : Word := n.setWidth 16

/-- `0xFF00 + zext_16(n)` (30_encoding.md R143). -/
def highPage (n : Byte) : Word := 0xFF00#16 + zext16 n

end Sys2Proof.Machine
end

