-- ==== Sys2Proof/Machine/Ops.lean ====
section
/-! DEFINITION. The named operations over the state: the Address Router (20_memory.md R91 to R113), the primitives of
00_scope.md R10 (fetch, push, pop), taking an interrupt and returning from one (60_exceptions.md R331, R334), and the
parts of the step frame (R330, R332). -/

namespace Sys2Proof.Machine

/-- `PC <- v`. -/
def State.setPc (v : Word) (s : State) : State := { s with regs := { s.regs with pc := v } }

/-- `SP <- v`. -/
def State.setSp (v : Word) (s : State) : State := { s with regs := { s.regs with sp := v } }

/-- `cycles <- n`: the cost the step returns (00_scope.md R10; log 2). -/
def State.took (n : Nat) (s : State) : State := { s with cycles := n }

/-- The rows of the routing table (20_memory.md R99). -/
inductive Region where
  | romFixed
  | romSwitch
  | videoRam
  | cartRam
  | workRam
  | sprite
  | gap
  | joypad
  | serial
  | io
  deriving DecidableEq, Repr

/-- The row of the routing table that owns an address (20_memory.md R99). -/
def route (a : Word) : Region :=
  if a.toNat < 0x4000 then .romFixed
  else if a.toNat < 0x8000 then .romSwitch
  else if a.toNat < 0xA000 then .videoRam
  else if a.toNat < 0xC000 then .cartRam
  else if a.toNat < 0xFE00 then .workRam
  else if a.toNat < 0xFEA0 then .sprite
  else if a.toNat < 0xFF00 then .gap
  else if a.toNat = 0xFF00 then .joypad
  else if a.toNat = 0xFF01 then .serial
  else .io

/-- A byte of the flat array. -/
def flatByte (a : Word) (s : State) : Byte := loadCell .flat s.flat a.toNat

/-- Store a byte in the flat array. -/
def setFlat (a : Word) (v : Byte) (s : State) : State := { s with flat := storeCell .flat s.flat a.toNat v }

/-- The joypad byte (20_memory.md R108): the low four bits are the collaborator's free answer (log 3). -/
def joypadByte (s : State) : Byte := 0b11#2 ++ s.joypSelect ++ Config.joypadAnswer s.joypQueries s.joypSelect

/-- The byte a Router `read(a)` returns (20_memory.md R100). -/
def readByte (a : Word) (s : State) : Result Byte :=
  match route a with
  | .romFixed => readRomFixed s.cart a.toNat
  | .romSwitch => readRomBanked s.cart a.toNat
  | .cartRam => readRamBanked s.cart a.toNat
  | .joypad => .next (joypadByte s)
  | .serial => .next s.serialByte
  | .videoRam | .workRam | .sprite | .gap | .io => .next (flatByte a s)

/-- The state after a Router `read(a)`: a read changes no state of the block (20_memory.md R100); a joypad query
uses up one free answer (log 3). -/
def afterRead (a : Word) (s : State) : State :=
  match route a with
  | .joypad => { s with joypQueries := s.joypQueries + 1 }
  | _ => s

/-- The Router's `read(a)` (20_memory.md R100). -/
def busRead (a : Word) (s : State) : Result (Byte × State) :=
  chain (readByte a s) fun v => .next (v, afterRead a s)

/-- The cartridge RAM write and the dirty signal (20_memory.md R104). -/
def writeCartRam (a : Word) (v : Byte) (s : State) : Result State :=
  chain (writeRamBanked s.cart a.toNat v) fun r =>
    match r with
    | .stored c => .next { s with cart := c, dirty := true }
    | .noop => .next s

/-- The Router's `write(a, v)` (20_memory.md R101). -/
def busWrite (a : Word) (v : Byte) (s : State) : Result State :=
  match route a with
  | .romFixed | .romSwitch => .next { s with cart := handleControlWrite s.cart a.toNat v }
  | .cartRam => writeCartRam a v s
  | .joypad => .next { s with joypSelect := v.extractLsb' 4 2 }
  | .serial => .next { s with serialByte := v }
  | .videoRam | .workRam | .sprite | .gap | .io => .next (setFlat a v s)

/-- `Fetch8()` (00_scope.md R10). -/
def fetch8 (s : State) : Result (Byte × State) :=
  chain (busRead s.regs.pc s) fun p => .next (p.1, p.2.setPc (s.regs.pc + 1))

/-- `n` bytes by `Fetch8()`, in address order (30_encoding.md R140). -/
def fetchBytes : Nat → State → Result (List Byte × State)
  | 0, s => .next ([], s)
  | n + 1, s => chain (fetch8 s) fun p => chain (fetchBytes n p.2) fun q => .next (p.1 :: q.1, q.2)

/-- `Push16(v)` (00_scope.md R10): the high byte at `SP - 1`, then the low byte at `SP - 2`. -/
def push16 (v : Word) (s : State) : Result State :=
  chain (busWrite (s.regs.sp - 1) (hiByte v) (s.setSp (s.regs.sp - 1))) fun u =>
    busWrite (u.regs.sp - 1) (loByte v) (u.setSp (u.regs.sp - 1))

/-- `Pop16()` (00_scope.md R10): the low byte at `SP`, then the high byte at `SP + 1`. -/
def pop16 (s : State) : Result (Word × State) :=
  chain (busRead s.regs.sp s) fun lo =>
    chain (busRead (s.regs.sp + 1) (lo.2.setSp (s.regs.sp + 1))) fun hi =>
      .next (joinBytes hi.1 lo.1, hi.2.setSp (s.regs.sp + 2))

/-- `IF` (60_exceptions.md R320). -/
def ifReg (s : State) : Byte := flatByte 0xFF0F s

/-- `IE` (60_exceptions.md R320). -/
def ieReg (s : State) : Byte := flatByte 0xFFFF s

/-- `pending = IF AND IE AND 0x1F` (60_exceptions.md R320). -/
def pending (s : State) : Byte := ifReg s &&& ieReg s &&& 0x1F

/-- The lowest set bit number of a non-zero `pending` (60_exceptions.md R321, R331). -/
def lowestBit (p : Byte) : Nat :=
  if p.getLsbD 0 then 0
  else if p.getLsbD 1 then 1
  else if p.getLsbD 2 then 2
  else if p.getLsbD 3 then 3
  else 4

/-- `vector(b) = 0x0040 + 8 * b` (60_exceptions.md R321). -/
def vector (b : Nat) : Word := BitVec.ofNat 16 (0x0040 + 8 * b)

/-- What a dispatch does before it pushes: `IME` and `ime_pending` cleared, the acknowledged bit of `IF` cleared
(60_exceptions.md R331). -/
def acknowledge (b : Nat) (s : State) : State :=
  setFlat 0xFF0F (ifReg s &&& ~~~(1#8 <<< b)) { s with ime := false, imePending := false }

/-- Taking an interrupt (60_exceptions.md R331): the one exception entry of the block. -/
def takeInterrupt (s : State) : Result State :=
  chain (push16 s.regs.pc (acknowledge (lowestBit (pending s)) s)) fun u =>
    .next ((u.setPc (vector (lowestBit (pending s)))).took 20)

/-- Returning from a handler (60_exceptions.md R334): `PC <- Pop16(); IME <- 1` at once. -/
def returnFromInterrupt (s : State) : Result State :=
  chain (pop16 s) fun p => .next { p.2.setPc p.1 with ime := true }

/-- The call finds the engine halted with nothing pending (60_exceptions.md R330 case 1). -/
def idles (s : State) : Bool := decide (s.runState = .halted) && decide (pending s = 0)

/-- `run_state <- Running` (60_exceptions.md R330 case 1). -/
def wake (s : State) : State := { s with runState := .running }

/-- The dispatch test (60_exceptions.md R330 case 2). -/
def dispatches (s : State) : Bool := s.ime && decide (pending s ≠ 0)

/-- The promotion at the end of an instruction step that began with `ime_pending = began` (60_exceptions.md R332). -/
def promote (began : Bool) (s : State) : State :=
  if began && s.imePending then { s with ime := true, imePending := false } else s

end Sys2Proof.Machine
end

