-- ==== Sys2Proof/Syntax.lean ====
section
/-! DEFINITION. The instruction syntax: one constructor per row of spec/opcode_table.json (30_encoding.md R162),
with the operand codes of R144 to R147 turned into names. -/

namespace Sys2Proof

/-- The seven registers an 8-bit operand code can name (30_encoding.md R144); code 6, `(HL)`, is a form of its
own, and `F` has no code. -/
inductive Reg8 where
  | b | c | d | e | h | l | a
  deriving DecidableEq, Repr

/-- `rp` (30_encoding.md R145). -/
inductive RegPair where
  | bc | de | hl | sp
  deriving DecidableEq, Repr

/-- `rp2` (30_encoding.md R146). -/
inductive StackPair where
  | bc | de | hl | af
  deriving DecidableEq, Repr

/-- `cc` (30_encoding.md R147). -/
inductive Cond where
  | nz | z | nc | c
  deriving DecidableEq, Repr

/-- The instructions, in the order of spec/opcode_table.json. -/
inductive Instr where
  /-- `NOP` (46_cpu_control.md R300). -/
  | nop
  /-- `LD rr,nn` (41_load16.md R200). -/
  | ldRrNn (p : RegPair) (nn : Word)
  /-- `LD (BC),A` (40_load8.md R178). -/
  | ldBcA
  /-- `INC rr` (43_alu16.md R241). -/
  | incRr (p : RegPair)
  /-- `INC r` (42_alu8.md R219). -/
  | incR (r : Reg8)
  /-- `INC (HL)` (42_alu8.md R219). -/
  | incHl
  /-- `DEC r` (42_alu8.md R220). -/
  | decR (r : Reg8)
  /-- `DEC (HL)` (42_alu8.md R220). -/
  | decHl
  /-- `LD r,n` (40_load8.md R172). -/
  | ldRN (r : Reg8) (n : Byte)
  /-- `LD (HL),n` (40_load8.md R175). -/
  | ldHlN (n : Byte)
  /-- `RLCA` (44_rotate_shift_bit.md R251). -/
  | rlca
  /-- `LD (nn),SP` (41_load16.md R201). -/
  | ldNnSp (nn : Word)
  /-- `ADD HL,rr` (43_alu16.md R240). -/
  | addHlRr (p : RegPair)
  /-- `LD A,(BC)` (40_load8.md R176). -/
  | ldABc
  /-- `DEC rr` (43_alu16.md R242). -/
  | decRr (p : RegPair)
  /-- `RRCA` (44_rotate_shift_bit.md R252). -/
  | rrca
  /-- `STOP`, with the second byte that is fetched and ignored (46_cpu_control.md R302; log 11). -/
  | stop (t : Byte)
  /-- `LD (DE),A` (40_load8.md R179). -/
  | ldDeA
  /-- `RLA` (44_rotate_shift_bit.md R253). -/
  | rla
  /-- `JR e` (45_control_flow.md R284). -/
  | jrE (e : Byte)
  /-- `LD A,(DE)` (40_load8.md R177). -/
  | ldADe
  /-- `RRA` (44_rotate_shift_bit.md R254). -/
  | rra
  /-- `JR cc,e` (45_control_flow.md R285). -/
  | jrCcE (cc : Cond) (e : Byte)
  /-- `LD (HL+),A` (40_load8.md R186). -/
  | ldHliA
  /-- `DAA` (42_alu8.md R221). -/
  | daa
  /-- `LD A,(HL+)` (40_load8.md R187). -/
  | ldAHli
  /-- `CPL` (42_alu8.md R222). -/
  | cpl
  /-- `LD (HL-),A` (40_load8.md R188). -/
  | ldHldA
  /-- `SCF` (42_alu8.md R223). -/
  | scf
  /-- `LD A,(HL-)` (40_load8.md R189). -/
  | ldAHld
  /-- `CCF` (42_alu8.md R224). -/
  | ccf
  /-- `LD r,r'` (40_load8.md R171). -/
  | ldRR (dst : Reg8) (r : Reg8)
  /-- `LD r,(HL)` (40_load8.md R173). -/
  | ldRHl (dst : Reg8)
  /-- `LD (HL),r` (40_load8.md R174). -/
  | ldHlR (r : Reg8)
  /-- `HALT` (46_cpu_control.md R301). -/
  | halt
  /-- `ADD A,r` (42_alu8.md R211). -/
  | addAR (r : Reg8)
  /-- `ADD A,(HL)` (42_alu8.md R211). -/
  | addAHl
  /-- `ADD A,n` (42_alu8.md R211). -/
  | addAN (n : Byte)
  /-- `ADC A,r` (42_alu8.md R212). -/
  | adcAR (r : Reg8)
  /-- `ADC A,(HL)` (42_alu8.md R212). -/
  | adcAHl
  /-- `ADC A,n` (42_alu8.md R212). -/
  | adcAN (n : Byte)
  /-- `SUB r` (42_alu8.md R213). -/
  | subR (r : Reg8)
  /-- `SUB (HL)` (42_alu8.md R213). -/
  | subHl
  /-- `SUB n` (42_alu8.md R213). -/
  | subN (n : Byte)
  /-- `SBC A,r` (42_alu8.md R214). -/
  | sbcAR (r : Reg8)
  /-- `SBC A,(HL)` (42_alu8.md R214). -/
  | sbcAHl
  /-- `SBC A,n` (42_alu8.md R214). -/
  | sbcAN (n : Byte)
  /-- `AND r` (42_alu8.md R215). -/
  | andR (r : Reg8)
  /-- `AND (HL)` (42_alu8.md R215). -/
  | andHl
  /-- `AND n` (42_alu8.md R215). -/
  | andN (n : Byte)
  /-- `XOR r` (42_alu8.md R216). -/
  | xorR (r : Reg8)
  /-- `XOR (HL)` (42_alu8.md R216). -/
  | xorHl
  /-- `XOR n` (42_alu8.md R216). -/
  | xorN (n : Byte)
  /-- `OR r` (42_alu8.md R217). -/
  | orR (r : Reg8)
  /-- `OR (HL)` (42_alu8.md R217). -/
  | orHl
  /-- `OR n` (42_alu8.md R217). -/
  | orN (n : Byte)
  /-- `CP r` (42_alu8.md R218). -/
  | cpR (r : Reg8)
  /-- `CP (HL)` (42_alu8.md R218). -/
  | cpHl
  /-- `CP n` (42_alu8.md R218). -/
  | cpN (n : Byte)
  /-- `RET cc` (45_control_flow.md R289). -/
  | retCc (cc : Cond)
  /-- `POP rr` (41_load16.md R205). -/
  | popRr (p : StackPair)
  /-- `JP cc,nn` (45_control_flow.md R282). -/
  | jpCcNn (cc : Cond) (nn : Word)
  /-- `JP nn` (45_control_flow.md R281). -/
  | jpNn (nn : Word)
  /-- `CALL cc,nn` (45_control_flow.md R287). -/
  | callCcNn (cc : Cond) (nn : Word)
  /-- `PUSH rr` (41_load16.md R204). -/
  | pushRr (p : StackPair)
  /-- `RST t`, written with its target (45_control_flow.md R291; log 12). -/
  | rstT (t : Byte)
  /-- `RET` (45_control_flow.md R288). -/
  | ret
  /-- `CALL nn` (45_control_flow.md R286). -/
  | callNn (nn : Word)
  /-- `RETI` (45_control_flow.md R290). -/
  | reti
  /-- `LDH (n),A` (40_load8.md R183). -/
  | ldhNA (n : Byte)
  /-- `LD (C),A` (40_load8.md R185). -/
  | ldCA
  /-- `ADD SP,e` (43_alu16.md R243). -/
  | addSpE (e : Byte)
  /-- `JP HL` (45_control_flow.md R283). -/
  | jpHl
  /-- `LD (nn),A` (40_load8.md R181). -/
  | ldNnA (nn : Word)
  /-- `LDH A,(n)` (40_load8.md R182). -/
  | ldhAN (n : Byte)
  /-- `LD A,(C)` (40_load8.md R184). -/
  | ldAC
  /-- `DI` (46_cpu_control.md R303). -/
  | di
  /-- `LD HL,SP+e` (41_load16.md R203). -/
  | ldHlSpE (e : Byte)
  /-- `LD SP,HL` (41_load16.md R202). -/
  | ldSpHl
  /-- `LD A,(nn)` (40_load8.md R180). -/
  | ldANn (nn : Word)
  /-- `EI` (46_cpu_control.md R304). -/
  | ei
  /-- The undefined byte `0xD3` (30_encoding.md R157). -/
  | illegalD3
  /-- The undefined byte `0xDB` (30_encoding.md R157). -/
  | illegalDB
  /-- The undefined byte `0xDD` (30_encoding.md R157). -/
  | illegalDD
  /-- The undefined byte `0xE3` (30_encoding.md R157). -/
  | illegalE3
  /-- The undefined byte `0xE4` (30_encoding.md R157). -/
  | illegalE4
  /-- The undefined byte `0xEB` (30_encoding.md R157). -/
  | illegalEB
  /-- The undefined byte `0xEC` (30_encoding.md R157). -/
  | illegalEC
  /-- The undefined byte `0xED` (30_encoding.md R157). -/
  | illegalED
  /-- The undefined byte `0xF4` (30_encoding.md R157). -/
  | illegalF4
  /-- The undefined byte `0xFC` (30_encoding.md R157). -/
  | illegalFC
  /-- The undefined byte `0xFD` (30_encoding.md R157). -/
  | illegalFD
  /-- `RLC r` (44_rotate_shift_bit.md R255). -/
  | rlcR (r : Reg8)
  /-- `RLC (HL)` (44_rotate_shift_bit.md R255). -/
  | rlcHl
  /-- `RRC r` (44_rotate_shift_bit.md R256). -/
  | rrcR (r : Reg8)
  /-- `RRC (HL)` (44_rotate_shift_bit.md R256). -/
  | rrcHl
  /-- `RL r` (44_rotate_shift_bit.md R257). -/
  | rlR (r : Reg8)
  /-- `RL (HL)` (44_rotate_shift_bit.md R257). -/
  | rlHl
  /-- `RR r` (44_rotate_shift_bit.md R258). -/
  | rrR (r : Reg8)
  /-- `RR (HL)` (44_rotate_shift_bit.md R258). -/
  | rrHl
  /-- `SLA r` (44_rotate_shift_bit.md R259). -/
  | slaR (r : Reg8)
  /-- `SLA (HL)` (44_rotate_shift_bit.md R259). -/
  | slaHl
  /-- `SRA r` (44_rotate_shift_bit.md R260). -/
  | sraR (r : Reg8)
  /-- `SRA (HL)` (44_rotate_shift_bit.md R260). -/
  | sraHl
  /-- `SWAP r` (44_rotate_shift_bit.md R261). -/
  | swapR (r : Reg8)
  /-- `SWAP (HL)` (44_rotate_shift_bit.md R261). -/
  | swapHl
  /-- `SRL r` (44_rotate_shift_bit.md R262). -/
  | srlR (r : Reg8)
  /-- `SRL (HL)` (44_rotate_shift_bit.md R262). -/
  | srlHl
  /-- `BIT b,r` (44_rotate_shift_bit.md R263). -/
  | bitBR (b : BitVec 3) (r : Reg8)
  /-- `BIT b,(HL)` (44_rotate_shift_bit.md R263). -/
  | bitBHl (b : BitVec 3)
  /-- `RES b,r` (44_rotate_shift_bit.md R264). -/
  | resBR (b : BitVec 3) (r : Reg8)
  /-- `RES b,(HL)` (44_rotate_shift_bit.md R264). -/
  | resBHl (b : BitVec 3)
  /-- `SET b,r` (44_rotate_shift_bit.md R265). -/
  | setBR (b : BitVec 3) (r : Reg8)
  /-- `SET b,(HL)` (44_rotate_shift_bit.md R265). -/
  | setBHl (b : BitVec 3)
  deriving DecidableEq, Repr

end Sys2Proof
end

