-- ==== Sys2Proof/Machine/Operands.lean ====
section
/-! DEFINITION. Every operand form: the register codes (30_encoding.md R144 to R147), the pair views (10_state.md R21)
and the memory operand `(HL)`. -/

namespace Sys2Proof.Machine

/-- `r8[i]` for a register code (30_encoding.md R144). -/
def Regs.get8 (r : Reg8) (g : Regs) : Byte :=
  match r with
  | .b => g.b
  | .c => g.c
  | .d => g.d
  | .e => g.e
  | .h => g.h
  | .l => g.l
  | .a => g.a

/-- `r8[i] <- v` for a register code (30_encoding.md R144). -/
def Regs.set8 (r : Reg8) (v : Byte) (g : Regs) : Regs :=
  match r with
  | .b => { g with b := v }
  | .c => { g with c := v }
  | .d => { g with d := v }
  | .e => { g with e := v }
  | .h => { g with h := v }
  | .l => { g with l := v }
  | .a => { g with a := v }

/-- `BC = B ++ C` (10_state.md R21). -/
def Regs.bc (g : Regs) : Word := joinBytes g.b g.c

/-- `DE = D ++ E`. -/
def Regs.de (g : Regs) : Word := joinBytes g.d g.e

/-- `HL = H ++ L`. -/
def Regs.hl (g : Regs) : Word := joinBytes g.h g.l

/-- `AF = A ++ F`. -/
def Regs.af (g : Regs) : Word := joinBytes g.a g.f

/-- `BC <- v`. -/
def Regs.setBc (v : Word) (g : Regs) : Regs := { g with b := hiByte v, c := loByte v }

/-- `DE <- v`. -/
def Regs.setDe (v : Word) (g : Regs) : Regs := { g with d := hiByte v, e := loByte v }

/-- `HL <- v` (10_state.md R21). -/
def Regs.setHl (v : Word) (g : Regs) : Regs := { g with h := hiByte v, l := loByte v }

/-- `AF <- v`: the low four bits of `F` stay zero (10_state.md R21, R22). -/
def Regs.setAf (v : Word) (g : Regs) : Regs := { g with a := hiByte v, f := loByte v &&& 0xF0 }

/-- `rp[p]` (30_encoding.md R145). -/
def Regs.getPair (p : RegPair) (g : Regs) : Word :=
  match p with
  | .bc => g.bc
  | .de => g.de
  | .hl => g.hl
  | .sp => g.sp

/-- `rp[p] <- v` (30_encoding.md R145). -/
def Regs.setPair (p : RegPair) (v : Word) (g : Regs) : Regs :=
  match p with
  | .bc => g.setBc v
  | .de => g.setDe v
  | .hl => g.setHl v
  | .sp => { g with sp := v }

/-- `rp2[p]` (30_encoding.md R146). -/
def Regs.getStack (p : StackPair) (g : Regs) : Word :=
  match p with
  | .bc => g.bc
  | .de => g.de
  | .hl => g.hl
  | .af => g.af

/-- `rp2[p] <- v` (30_encoding.md R146). -/
def Regs.setStack (p : StackPair) (v : Word) (g : Regs) : Regs :=
  match p with
  | .bc => g.setBc v
  | .de => g.setDe v
  | .hl => g.setHl v
  | .af => g.setAf v

/-- Apply a register update to the state. -/
def State.mapRegs (f : Regs → Regs) (s : State) : State := { s with regs := f s.regs }

/-- Flag Z is bit 7 of `F` (10_state.md R22). -/
def flagZ (f : Byte) : Bool := f.getLsbD 7

/-- Flag N is bit 6 of `F`. -/
def flagN (f : Byte) : Bool := f.getLsbD 6

/-- Flag H (`Hf`) is bit 5 of `F`. -/
def flagH (f : Byte) : Bool := f.getLsbD 5

/-- Flag C (`Cf`) is bit 4 of `F`. -/
def flagC (f : Byte) : Bool := f.getLsbD 4

/-- `cond(cc)` (30_encoding.md R147). -/
def condHolds (cc : Cond) (f : Byte) : Bool :=
  match cc with
  | .nz => !flagZ f
  | .z => flagZ f
  | .nc => !flagC f
  | .c => flagC f

/-- The memory operand `(HL)`: `MemRead(HL, 1)` (30_encoding.md R144). -/
def readHl (s : State) : Result (Byte × State) := busRead s.regs.hl s

/-- Load the byte at `addr` and put it where `put` says. -/
def loadTo (addr : Word) (put : Byte → Regs → Regs) (s : State) : Result State :=
  chain (busRead addr s) fun p => .next (p.2.mapRegs (put p.1))

end Sys2Proof.Machine
end

