-- ==== Sys2Proof/Machine/Flags.lean ====
section
/-! DEFINITION. Every result and flag computation: each operation answers its value and the new `F`
(10_state.md R22, R25; 42_alu8.md, 43_alu16.md, 44_rotate_shift_bit.md). -/

namespace Sys2Proof.Machine

/-- An 8-bit value and the flag register that goes with it. -/
structure Flagged where
  val : Byte
  f : Byte
  deriving DecidableEq, Repr

/-- `F` from its four flags; bits 3 to 0 are zero (10_state.md R22). -/
def packF (z n h c : Bool) : Byte := BitVec.ofBool z ++ BitVec.ofBool n ++ BitVec.ofBool h ++ BitVec.ofBool c ++ 0#4

/-- The low nibble of a byte as an integer. -/
def nibble (v : Byte) : Nat := v.toNat % 16

/-- `ADD` (carry in 0) and `ADC` (42_alu8.md R211, R212). -/
def addWith (a v : Byte) (c : Nat) : Flagged :=
  let sum := a.toNat + v.toNat + c
  { val := BitVec.ofNat 8 sum
    f := packF (decide (sum % 256 = 0)) false (decide (nibble a + nibble v + c > 0xF)) (decide (sum > 0xFF)) }

/-- `SUB` (borrow in 0) and `SBC` (42_alu8.md R213, R214). -/
def subWith (a v : Byte) (c : Nat) : Flagged :=
  let d : Int := (a.toNat : Int) - v.toNat - c
  { val := BitVec.ofInt 8 d
    f := packF (decide (d % 256 = 0)) true (decide (nibble a < nibble v + c)) (decide (a.toNat < v.toNat + c)) }

/-- The integer value of flag C. -/
def carryIn (f : Byte) : Nat := (flagC f).toNat

/-- `ADD` (42_alu8.md R211). -/
def aluAdd (a v _f : Byte) : Flagged := addWith a v 0

/-- `ADC` (R212). -/
def aluAdc (a v f : Byte) : Flagged := addWith a v (carryIn f)

/-- `SUB` (R213). -/
def aluSub (a v _f : Byte) : Flagged := subWith a v 0

/-- `SBC` (R214). -/
def aluSbc (a v f : Byte) : Flagged := subWith a v (carryIn f)

/-- `AND` (R215). -/
def aluAnd (a v _f : Byte) : Flagged := ⟨a &&& v, packF (decide (a &&& v = 0)) false true false⟩

/-- `XOR` (R216). -/
def aluXor (a v _f : Byte) : Flagged := ⟨a ^^^ v, packF (decide (a ^^^ v = 0)) false false false⟩

/-- `OR` (R217). -/
def aluOr (a v _f : Byte) : Flagged := ⟨a ||| v, packF (decide (a ||| v = 0)) false false false⟩

/-- `CP` (R218): the flags of `SUB`, and `A` is not written. -/
def aluCp (a v _f : Byte) : Flagged := ⟨a, (subWith a v 0).f⟩

/-- `INC r8` (R219): C unchanged. -/
def incByte (w f : Byte) : Flagged :=
  ⟨w + 1, packF (decide (w + 1 = 0)) false (decide (nibble w = 0xF)) (flagC f)⟩

/-- `DEC r8` (R220): C unchanged. -/
def decByte (w f : Byte) : Flagged :=
  ⟨w - 1, packF (decide (w - 1 = 0)) true (decide (nibble w = 0x0)) (flagC f)⟩

/-- The adjustment of `DAA` and the carry it leaves (R221): both tests of the addition branch are made on the
original value. -/
def daaAdjust (a f : Byte) : Nat × Bool :=
  if flagN f then
    ((if flagH f then 0x06 else 0) + (if flagC f then 0x60 else 0), flagC f)
  else
    ((if flagH f || decide (nibble a > 0x09) then 0x06 else 0)
      + (if flagC f || decide (a.toNat > 0x99) then 0x60 else 0), flagC f || decide (a.toNat > 0x99))

/-- `DAA` (R221). -/
def aluDaa (a f : Byte) : Flagged :=
  let adj := daaAdjust a f
  let r : Byte :=
    if flagN f then BitVec.ofInt 8 ((a.toNat : Int) - adj.1) else BitVec.ofNat 8 (a.toNat + adj.1)
  ⟨r, packF (decide (r = 0)) (flagN f) false adj.2⟩

/-- `CPL` (R222). -/
def aluCpl (a f : Byte) : Flagged := ⟨~~~a, packF (flagZ f) true true (flagC f)⟩

/-- The flags of `SCF` (R223). -/
def scfFlags (f : Byte) : Byte := packF (flagZ f) false false true

/-- The flags of `CCF` (R224). -/
def ccfFlags (f : Byte) : Byte := packF (flagZ f) false false (!flagC f)

/-- The flags of `ADD HL,rr` (43_alu16.md R240): carries out of bits 11 and 15, Z unchanged. -/
def addHlFlags (hl v : Word) (f : Byte) : Byte :=
  packF (flagZ f) false (decide (hl.toNat % 0x1000 + v.toNat % 0x1000 > 0x0FFF)) (decide (hl.toNat + v.toNat > 0xFFFF))

/-- The flags of `ADD SP,e` and `LD HL,SP+e` (43_alu16.md R243, 41_load16.md R203): those of the unsigned 8-bit
addition of the low byte of `SP` and the raw byte `e`. -/
def spFlags (sp : Word) (e : Byte) : Byte :=
  packF false false (decide (sp.toNat % 16 + nibble e > 0xF)) (decide (sp.toNat % 256 + e.toNat > 0xFF))

/-- The flags of the eight `rot` operations: Z from the result, C the bit that leaves (44_rotate_shift_bit.md
R255 to R262). -/
def rotFlagged (res : Byte) (c : Bool) : Flagged := ⟨res, packF (decide (res = 0)) false false c⟩

/-- `w[6:0] ++ b`. -/
def shiftInLow (w : Byte) (b : Bool) : Byte := w.extractLsb' 0 7 ++ BitVec.ofBool b

/-- `b ++ w[7:1]`. -/
def shiftInHigh (b : Bool) (w : Byte) : Byte := BitVec.ofBool b ++ w.extractLsb' 1 7

/-- `RLC` (R255). -/
def rotRlc (w _f : Byte) : Flagged := rotFlagged (shiftInLow w (w.getLsbD 7)) (w.getLsbD 7)

/-- `RRC` (R256). -/
def rotRrc (w _f : Byte) : Flagged := rotFlagged (shiftInHigh (w.getLsbD 0) w) (w.getLsbD 0)

/-- `RL` (R257). -/
def rotRl (w f : Byte) : Flagged := rotFlagged (shiftInLow w (flagC f)) (w.getLsbD 7)

/-- `RR` (R258). -/
def rotRr (w f : Byte) : Flagged := rotFlagged (shiftInHigh (flagC f) w) (w.getLsbD 0)

/-- `SLA` (R259). -/
def rotSla (w _f : Byte) : Flagged := rotFlagged (shiftInLow w false) (w.getLsbD 7)

/-- `SRA` (R260). -/
def rotSra (w _f : Byte) : Flagged := rotFlagged (shiftInHigh (w.getLsbD 7) w) (w.getLsbD 0)

/-- `SWAP` (R261). -/
def rotSwap (w _f : Byte) : Flagged := rotFlagged (w.extractLsb' 0 4 ++ w.extractLsb' 4 4) false

/-- `SRL` (R262). -/
def rotSrl (w _f : Byte) : Flagged := rotFlagged (shiftInHigh false w) (w.getLsbD 0)

/-- An accumulator rotate: the result and carry of the prefixed operation, Z forced to 0 (R251 to R254, R266). -/
def forceZClear (r : Flagged) : Flagged := ⟨r.val, packF false false false (flagC r.f)⟩

/-- The flags of `BIT b` (R263): C unchanged. -/
def bitFlags (b : BitVec 3) (w f : Byte) : Byte := packF (!w.getLsbD b.toNat) false true (flagC f)

/-- `RES b` (R264): `w AND NOT (1 << b)`. -/
def resBit (b : BitVec 3) (w : Byte) : Byte := w &&& ~~~(1#8 <<< b.toNat)

/-- `SET b` (R265): `w OR (1 << b)`. -/
def setBit (b : BitVec 3) (w : Byte) : Byte := w ||| (1#8 <<< b.toNat)

end Sys2Proof.Machine
end

