-- ==== Sys2Proof/Machine/Alu16.lean ====
section
/-! DEFINITION. 16-bit arithmetic (43_alu16.md R240 to R244). -/

namespace Sys2Proof.Machine

/-- `ADD HL,rr` (R240): `HL` in the flag formulas is the value before the instruction. -/
def execAddHlRr (p : RegPair) (s : State) : Result State :=
  let v := s.regs.getPair p
  .next ((s.mapRegs fun g => { g.setHl (s.regs.hl + v) with f := addHlFlags s.regs.hl v s.regs.f }).took 8)

/-- `INC rr` (R241): no flag. -/
def execIncRr (p : RegPair) (s : State) : Result State :=
  .next ((s.mapRegs (Regs.setPair p (s.regs.getPair p + 1))).took 8)

/-- `DEC rr` (R242): no flag. -/
def execDecRr (p : RegPair) (s : State) : Result State :=
  .next ((s.mapRegs (Regs.setPair p (s.regs.getPair p - 1))).took 8)

/-- `ADD SP,e` (R243). -/
def execAddSpE (e : Byte) (s : State) : Result State :=
  .next ((s.mapRegs fun g => { g with sp := s.regs.sp + sext16 e, f := spFlags s.regs.sp e }).took 16)

end Sys2Proof.Machine
end

