-- ==== Sys2Proof/Machine/Alu8.lean ====
section
/-! DEFINITION. 8-bit arithmetic and logic (42_alu8.md R210 to R225). -/

namespace Sys2Proof.Machine

/-- Write the result and the flags of an accumulator operation (42_alu8.md R210). -/
def setAccF (r : Flagged) (s : State) : State := s.mapRegs fun g => { g with a := r.val, f := r.f }

/-- Register form of an accumulator operation (R210). -/
def accReg (g : Byte → Byte → Byte → Flagged) (r : Reg8) (s : State) : Result State :=
  .next ((setAccF (g s.regs.a (s.regs.get8 r) s.regs.f) s).took 4)

/-- Memory form of an accumulator operation (R210). -/
def accHl (g : Byte → Byte → Byte → Flagged) (s : State) : Result State :=
  chain (readHl s) fun p => .next ((setAccF (g s.regs.a p.1 s.regs.f) p.2).took 8)

/-- Immediate form of an accumulator operation (R210). -/
def accImm (g : Byte → Byte → Byte → Flagged) (n : Byte) (s : State) : Result State :=
  .next ((setAccF (g s.regs.a n s.regs.f) s).took 8)

/-- An operation on a register that writes the register and `F`. -/
def updateReg (g : Byte → Byte → Flagged) (r : Reg8) (n : Nat) (s : State) : Result State :=
  let o := g (s.regs.get8 r) s.regs.f
  .next ((s.mapRegs fun k => { k.set8 r o.val with f := o.f }).took n)

/-- An operation on the byte at `HL` that writes it back, the read before the write, and writes `F`. -/
def updateHl (g : Byte → Byte → Flagged) (n : Nat) (s : State) : Result State :=
  chain (readHl s) fun p =>
    let o := g p.1 s.regs.f
    chain (busWrite s.regs.hl o.val p.2) fun u => .next ((u.mapRegs fun k => { k with f := o.f }).took n)

/-- `ADD A,r` (R211). -/
def execAddAR (r : Reg8) (s : State) : Result State := accReg aluAdd r s

/-- `ADD A,(HL)` (R211). -/
def execAddAHl (s : State) : Result State := accHl aluAdd s

/-- `ADD A,n` (R211). -/
def execAddAN (n : Byte) (s : State) : Result State := accImm aluAdd n s

/-- `ADC A,r` (R212). -/
def execAdcAR (r : Reg8) (s : State) : Result State := accReg aluAdc r s

/-- `ADC A,(HL)` (R212). -/
def execAdcAHl (s : State) : Result State := accHl aluAdc s

/-- `ADC A,n` (R212). -/
def execAdcAN (n : Byte) (s : State) : Result State := accImm aluAdc n s

/-- `SUB r` (R213). -/
def execSubR (r : Reg8) (s : State) : Result State := accReg aluSub r s

/-- `SUB (HL)` (R213). -/
def execSubHl (s : State) : Result State := accHl aluSub s

/-- `SUB n` (R213). -/
def execSubN (n : Byte) (s : State) : Result State := accImm aluSub n s

/-- `SBC A,r` (R214). -/
def execSbcAR (r : Reg8) (s : State) : Result State := accReg aluSbc r s

/-- `SBC A,(HL)` (R214). -/
def execSbcAHl (s : State) : Result State := accHl aluSbc s

/-- `SBC A,n` (R214). -/
def execSbcAN (n : Byte) (s : State) : Result State := accImm aluSbc n s

/-- `AND r` (R215). -/
def execAndR (r : Reg8) (s : State) : Result State := accReg aluAnd r s

/-- `AND (HL)` (R215). -/
def execAndHl (s : State) : Result State := accHl aluAnd s

/-- `AND n` (R215). -/
def execAndN (n : Byte) (s : State) : Result State := accImm aluAnd n s

/-- `XOR r` (R216). -/
def execXorR (r : Reg8) (s : State) : Result State := accReg aluXor r s

/-- `XOR (HL)` (R216). -/
def execXorHl (s : State) : Result State := accHl aluXor s

/-- `XOR n` (R216). -/
def execXorN (n : Byte) (s : State) : Result State := accImm aluXor n s

/-- `OR r` (R217). -/
def execOrR (r : Reg8) (s : State) : Result State := accReg aluOr r s

/-- `OR (HL)` (R217). -/
def execOrHl (s : State) : Result State := accHl aluOr s

/-- `OR n` (R217). -/
def execOrN (n : Byte) (s : State) : Result State := accImm aluOr n s

/-- `CP r` (R218). -/
def execCpR (r : Reg8) (s : State) : Result State := accReg aluCp r s

/-- `CP (HL)` (R218). -/
def execCpHl (s : State) : Result State := accHl aluCp s

/-- `CP n` (R218). -/
def execCpN (n : Byte) (s : State) : Result State := accImm aluCp n s

/-- `INC r` (R219). -/
def execIncR (r : Reg8) (s : State) : Result State := updateReg incByte r 4 s

/-- `INC (HL)` (R219). -/
def execIncHl (s : State) : Result State := updateHl incByte 12 s

/-- `DEC r` (R220). -/
def execDecR (r : Reg8) (s : State) : Result State := updateReg decByte r 4 s

/-- `DEC (HL)` (R220). -/
def execDecHl (s : State) : Result State := updateHl decByte 12 s

/-- `DAA` (R221). -/
def execDaa (s : State) : Result State := .next ((setAccF (aluDaa s.regs.a s.regs.f) s).took 4)

/-- `CPL` (R222). -/
def execCpl (s : State) : Result State := .next ((setAccF (aluCpl s.regs.a s.regs.f) s).took 4)

/-- `SCF` (R223). -/
def execScf (s : State) : Result State := .next ((s.mapRegs fun g => { g with f := scfFlags g.f }).took 4)

/-- `CCF` (R224). -/
def execCcf (s : State) : Result State := .next ((s.mapRegs fun g => { g with f := ccfFlags g.f }).took 4)

end Sys2Proof.Machine
end

