-- ==== Sys2Proof/Machine/ControlFlow.lean ====
section
/-! DEFINITION. Jumps, calls and returns (45_control_flow.md R280 to R292). `PC` already points past the instruction
(R280); no flag changes. -/

namespace Sys2Proof.Machine

/-- `JP nn` (R281). -/
def execJpNn (nn : Word) (s : State) : Result State := .next ((s.setPc nn).took 16)

/-- `JP cc,nn` (R282). -/
def execJpCcNn (cc : Cond) (nn : Word) (s : State) : Result State :=
  if condHolds cc s.regs.f then .next ((s.setPc nn).took 16) else .next (s.took 12)

/-- `JP HL` (R283): no memory is read. -/
def execJpHl (s : State) : Result State := .next ((s.setPc s.regs.hl).took 4)

/-- `JR e` (R284). -/
def execJrE (e : Byte) (s : State) : Result State := .next ((s.setPc (s.regs.pc + sext16 e)).took 12)

/-- `JR cc,e` (R285). -/
def execJrCcE (cc : Cond) (e : Byte) (s : State) : Result State :=
  if condHolds cc s.regs.f then .next ((s.setPc (s.regs.pc + sext16 e)).took 12) else .next (s.took 8)

/-- Push `PC` and jump (R280 (b)). -/
def callTo (target : Word) (n : Nat) (s : State) : Result State :=
  chain (push16 s.regs.pc s) fun u => .next ((u.setPc target).took n)

/-- Pop into `PC` (R288). -/
def returnTaking (n : Nat) (s : State) : Result State :=
  chain (pop16 s) fun r => .next ((r.2.setPc r.1).took n)

/-- `CALL nn` (R286). -/
def execCallNn (nn : Word) (s : State) : Result State := callTo nn 24 s

/-- `CALL cc,nn` (R287). -/
def execCallCcNn (cc : Cond) (nn : Word) (s : State) : Result State :=
  if condHolds cc s.regs.f then callTo nn 24 s else .next (s.took 12)

/-- `RET` (R288). -/
def execRet (s : State) : Result State := returnTaking 16 s

/-- `RET cc` (R289). -/
def execRetCc (cc : Cond) (s : State) : Result State :=
  if condHolds cc s.regs.f then returnTaking 20 s else .next (s.took 8)

/-- `RETI` (R290): `ime_pending` is left as it is. -/
def execReti (s : State) : Result State := chain (returnFromInterrupt s) fun u => .next (u.took 16)

/-- `RST t` (R291). -/
def execRstT (t : Byte) (s : State) : Result State := callTo (zext16 t) 16 s

end Sys2Proof.Machine
end

