-- ==== Sys2Proof/Machine/CpuControl.lean ====
section
/-! DEFINITION. Processor control (46_cpu_control.md R300 to R305). -/

namespace Sys2Proof.Machine

/-- `NOP` (R300). -/
def execNop (s : State) : Result State := .next (s.took 4)

/-- `HALT` (R301). -/
def execHalt (s : State) : Result State := .next ({ s with runState := .halted }.took 4)

/-- `STOP` (R302): the byte after it has been fetched and is ignored; nothing else happens (log 19). -/
def execStop (_t : Byte) (s : State) : Result State := .next (s.took 4)

/-- `DI` (R303): both at once. -/
def execDi (s : State) : Result State := .next ({ s with ime := false, imePending := false }.took 4)

/-- `EI` (R304): `IME` itself rises by promotion (60_exceptions.md R332). -/
def execEi (s : State) : Result State := .next ({ s with imePending := true }.took 4)

end Sys2Proof.Machine
end

