-- ==== Sys2Proof/Machine/Load16.lean ====
section
/-! DEFINITION. The 16-bit loads and the stack instructions (41_load16.md R200 to R205). -/

namespace Sys2Proof.Machine

/-- `LD rr,nn` (R200). -/
def execLdRrNn (p : RegPair) (nn : Word) (s : State) : Result State := .next ((s.mapRegs (Regs.setPair p nn)).took 12)

/-- `LD (nn),SP` (R201): the low byte at `nn`, then the high byte at `nn + 1`. -/
def execLdNnSp (nn : Word) (s : State) : Result State :=
  chain (busWrite nn (loByte s.regs.sp) s) fun u =>
    chain (busWrite (nn + 1) (hiByte s.regs.sp) u) fun t => .next (t.took 20)

/-- `LD SP,HL` (R202). -/
def execLdSpHl (s : State) : Result State := .next ((s.setSp s.regs.hl).took 8)

/-- `LD HL,SP+e` (R203). -/
def execLdHlSpE (e : Byte) (s : State) : Result State :=
  .next ((s.mapRegs fun g => { g.setHl (s.regs.sp + sext16 e) with f := spFlags s.regs.sp e }).took 12)

/-- `PUSH rr` (R204). -/
def execPushRr (p : StackPair) (s : State) : Result State :=
  chain (push16 (s.regs.getStack p) s) fun u => .next (u.took 16)

/-- `POP rr` (R205). -/
def execPopRr (p : StackPair) (s : State) : Result State :=
  chain (pop16 s) fun r => .next ((r.2.mapRegs (Regs.setStack p r.1)).took 12)

end Sys2Proof.Machine
end

