-- ==== Sys2Proof/Machine/Load8.lean ====
section
/-! DEFINITION. The 8-bit loads (40_load8.md R170 to R189). Operands have been fetched before a meaning runs (log 20);
no flag changes (R170). -/

namespace Sys2Proof.Machine

/-- `LD r,r'` (R171). -/
def execLdRR (dst r : Reg8) (s : State) : Result State := .next ((s.mapRegs (Regs.set8 dst (s.regs.get8 r))).took 4)

/-- `LD r,n` (R172). -/
def execLdRN (r : Reg8) (n : Byte) (s : State) : Result State := .next ((s.mapRegs (Regs.set8 r n)).took 8)

/-- Load a register from memory, with the cost of the instruction. -/
def loadReg (addr : Word) (r : Reg8) (n : Nat) (s : State) : Result State :=
  chain (loadTo addr (Regs.set8 r) s) fun u => .next (u.took n)

/-- Store a byte, with the cost of the instruction. -/
def storeByte (addr : Word) (v : Byte) (n : Nat) (s : State) : Result State :=
  chain (busWrite addr v s) fun u => .next (u.took n)

/-- `LD r,(HL)` (R173): the address is the old `HL`. -/
def execLdRHl (dst : Reg8) (s : State) : Result State := loadReg s.regs.hl dst 8 s

/-- `LD (HL),r` (R174). -/
def execLdHlR (r : Reg8) (s : State) : Result State := storeByte s.regs.hl (s.regs.get8 r) 8 s

/-- `LD (HL),n` (R175). -/
def execLdHlN (n : Byte) (s : State) : Result State := storeByte s.regs.hl n 12 s

/-- `LD A,(BC)` (R176). -/
def execLdABc (s : State) : Result State := loadReg s.regs.bc .a 8 s

/-- `LD A,(DE)` (R177). -/
def execLdADe (s : State) : Result State := loadReg s.regs.de .a 8 s

/-- `LD (BC),A` (R178). -/
def execLdBcA (s : State) : Result State := storeByte s.regs.bc s.regs.a 8 s

/-- `LD (DE),A` (R179). -/
def execLdDeA (s : State) : Result State := storeByte s.regs.de s.regs.a 8 s

/-- `LD A,(nn)` (R180). -/
def execLdANn (nn : Word) (s : State) : Result State := loadReg nn .a 16 s

/-- `LD (nn),A` (R181). -/
def execLdNnA (nn : Word) (s : State) : Result State := storeByte nn s.regs.a 16 s

/-- `LDH A,(n)` (R182). -/
def execLdhAN (n : Byte) (s : State) : Result State := loadReg (highPage n) .a 12 s

/-- `LDH (n),A` (R183). -/
def execLdhNA (n : Byte) (s : State) : Result State := storeByte (highPage n) s.regs.a 12 s

/-- `LD A,(C)` (R184). -/
def execLdAC (s : State) : Result State := loadReg (highPage s.regs.c) .a 8 s

/-- `LD (C),A` (R185). -/
def execLdCA (s : State) : Result State := storeByte (highPage s.regs.c) s.regs.a 8 s

/-- `LD (HL+),A` (R186): the store, then `HL <- HL + 1`. -/
def execLdHliA (s : State) : Result State :=
  chain (storeByte s.regs.hl s.regs.a 8 s) fun u => .next (u.mapRegs (Regs.setHl (s.regs.hl + 1)))

/-- `LD A,(HL+)` (R187): the load, then `HL <- HL + 1`. -/
def execLdAHli (s : State) : Result State :=
  chain (loadReg s.regs.hl .a 8 s) fun u => .next (u.mapRegs (Regs.setHl (s.regs.hl + 1)))

/-- `LD (HL-),A` (R188): the store, then `HL <- HL - 1`. -/
def execLdHldA (s : State) : Result State :=
  chain (storeByte s.regs.hl s.regs.a 8 s) fun u => .next (u.mapRegs (Regs.setHl (s.regs.hl - 1)))

/-- `LD A,(HL-)` (R189): the load, then `HL <- HL - 1`. -/
def execLdAHld (s : State) : Result State :=
  chain (loadReg s.regs.hl .a 8 s) fun u => .next (u.mapRegs (Regs.setHl (s.regs.hl - 1)))

end Sys2Proof.Machine
end

