-- ==== Sys2Proof/Machine/RotateShiftBit.lean ====
section
/-! DEFINITION. Rotates, shifts and bit operations (44_rotate_shift_bit.md R250 to R266). -/

namespace Sys2Proof.Machine

/-- `RLCA` (R251). -/
def execRlca (s : State) : Result State :=
  .next ((setAccF (forceZClear (rotRlc s.regs.a s.regs.f)) s).took 4)

/-- `RRCA` (R252). -/
def execRrca (s : State) : Result State :=
  .next ((setAccF (forceZClear (rotRrc s.regs.a s.regs.f)) s).took 4)

/-- `RLA` (R253). -/
def execRla (s : State) : Result State :=
  .next ((setAccF (forceZClear (rotRl s.regs.a s.regs.f)) s).took 4)

/-- `RRA` (R254). -/
def execRra (s : State) : Result State :=
  .next ((setAccF (forceZClear (rotRr s.regs.a s.regs.f)) s).took 4)

/-- `RLC r` (R255). -/
def execRlcR (r : Reg8) (s : State) : Result State := updateReg rotRlc r 8 s

/-- `RLC (HL)` (R255). -/
def execRlcHl (s : State) : Result State := updateHl rotRlc 16 s

/-- `RRC r` (R256). -/
def execRrcR (r : Reg8) (s : State) : Result State := updateReg rotRrc r 8 s

/-- `RRC (HL)` (R256). -/
def execRrcHl (s : State) : Result State := updateHl rotRrc 16 s

/-- `RL r` (R257). -/
def execRlR (r : Reg8) (s : State) : Result State := updateReg rotRl r 8 s

/-- `RL (HL)` (R257). -/
def execRlHl (s : State) : Result State := updateHl rotRl 16 s

/-- `RR r` (R258). -/
def execRrR (r : Reg8) (s : State) : Result State := updateReg rotRr r 8 s

/-- `RR (HL)` (R258). -/
def execRrHl (s : State) : Result State := updateHl rotRr 16 s

/-- `SLA r` (R259). -/
def execSlaR (r : Reg8) (s : State) : Result State := updateReg rotSla r 8 s

/-- `SLA (HL)` (R259). -/
def execSlaHl (s : State) : Result State := updateHl rotSla 16 s

/-- `SRA r` (R260). -/
def execSraR (r : Reg8) (s : State) : Result State := updateReg rotSra r 8 s

/-- `SRA (HL)` (R260). -/
def execSraHl (s : State) : Result State := updateHl rotSra 16 s

/-- `SWAP r` (R261). -/
def execSwapR (r : Reg8) (s : State) : Result State := updateReg rotSwap r 8 s

/-- `SWAP (HL)` (R261). -/
def execSwapHl (s : State) : Result State := updateHl rotSwap 16 s

/-- `SRL r` (R262). -/
def execSrlR (r : Reg8) (s : State) : Result State := updateReg rotSrl r 8 s

/-- `SRL (HL)` (R262). -/
def execSrlHl (s : State) : Result State := updateHl rotSrl 16 s

/-- `BIT b,r` (R263). -/
def execBitBR (b : BitVec 3) (r : Reg8) (s : State) : Result State :=
  .next ((s.mapRegs fun g => { g with f := bitFlags b (g.get8 r) g.f }).took 8)

/-- `BIT b,(HL)` (R263): one read and no write. -/
def execBitBHl (b : BitVec 3) (s : State) : Result State :=
  chain (readHl s) fun p => .next ((p.2.mapRegs fun g => { g with f := bitFlags b p.1 g.f }).took 12)

/-- `RES b,r` (R264). -/
def execResBR (b : BitVec 3) (r : Reg8) (s : State) : Result State :=
  .next ((s.mapRegs (Regs.set8 r (resBit b (s.regs.get8 r)))).took 8)

/-- Replace the byte at `HL` by a function of it, the read before the write; the write is unconditional
(R264, R265). -/
def rewriteHl (g : Byte → Byte) (s : State) : Result State :=
  chain (readHl s) fun p => chain (busWrite s.regs.hl (g p.1) p.2) fun u => .next (u.took 16)

/-- `RES b,(HL)` (R264). -/
def execResBHl (b : BitVec 3) (s : State) : Result State := rewriteHl (resBit b) s

/-- `SET b,r` (R265). -/
def execSetBR (b : BitVec 3) (r : Reg8) (s : State) : Result State :=
  .next ((s.mapRegs (Regs.set8 r (setBit b (s.regs.get8 r)))).took 8)

/-- `SET b,(HL)` (R265). -/
def execSetBHl (b : BitVec 3) (s : State) : Result State := rewriteHl (setBit b) s

end Sys2Proof.Machine
end

