-- ==== Sys2Proof/Machine/Undefined.lean ====
section
/-! DEFINITION. The eleven undefined bytes (30_encoding.md R157, 60_exceptions.md R311). -/

namespace Sys2Proof.Machine

/-- The report of an undefined byte (60_exceptions.md R311). -/
def raiseInvalidOpcode (op : Byte) (_s : State) : Result State := .fault (.invalidOpcode op)

/-- `0xD3` (30_encoding.md R157). -/
def execIllegalD3 (s : State) : Result State := raiseInvalidOpcode 0xD3 s

/-- `0xDB` (30_encoding.md R157). -/
def execIllegalDB (s : State) : Result State := raiseInvalidOpcode 0xDB s

/-- `0xDD` (30_encoding.md R157). -/
def execIllegalDD (s : State) : Result State := raiseInvalidOpcode 0xDD s

/-- `0xE3` (30_encoding.md R157). -/
def execIllegalE3 (s : State) : Result State := raiseInvalidOpcode 0xE3 s

/-- `0xE4` (30_encoding.md R157). -/
def execIllegalE4 (s : State) : Result State := raiseInvalidOpcode 0xE4 s

/-- `0xEB` (30_encoding.md R157). -/
def execIllegalEB (s : State) : Result State := raiseInvalidOpcode 0xEB s

/-- `0xEC` (30_encoding.md R157). -/
def execIllegalEC (s : State) : Result State := raiseInvalidOpcode 0xEC s

/-- `0xED` (30_encoding.md R157). -/
def execIllegalED (s : State) : Result State := raiseInvalidOpcode 0xED s

/-- `0xF4` (30_encoding.md R157). -/
def execIllegalF4 (s : State) : Result State := raiseInvalidOpcode 0xF4 s

/-- `0xFC` (30_encoding.md R157). -/
def execIllegalFC (s : State) : Result State := raiseInvalidOpcode 0xFC s

/-- `0xFD` (30_encoding.md R157). -/
def execIllegalFD (s : State) : Result State := raiseInvalidOpcode 0xFD s

end Sys2Proof.Machine
end

