-- ==== Sys2Proof/WellFormed.lean ====
section
/-! DEFINITION. Which instruction terms the encoding has a word for. The operand types already exclude `(HL)` and
`F` as register operands and bit numbers above 7; the one operand a term can get wrong is the target of `RST`. -/

namespace Sys2Proof

/-- The target of `RST` is one of `0x00, 0x08, ..., 0x38` (45_control_flow.md R291). -/
def rstTargetOk (t : Byte) : Bool := t &&& 0xC7 == 0

/-- A term is well formed when its operands are among those its encoding admits. -/
def Instr.wellFormed : Instr → Bool
  | .rstT t => rstTargetOk t
  | .nop | .ldRrNn _ _ | .ldBcA | .incRr _ | .incR _ | .incHl | .decR _ | .decHl | .ldRN _ _ | .ldHlN _ | .rlca
    | .ldNnSp _ | .addHlRr _ | .ldABc | .decRr _ | .rrca | .stop _ | .ldDeA | .rla | .jrE _ | .ldADe | .rra
    | .jrCcE _ _ | .ldHliA | .daa | .ldAHli | .cpl | .ldHldA | .scf | .ldAHld | .ccf | .ldRR _ _ | .ldRHl _
    | .ldHlR _ | .halt | .addAR _ | .addAHl | .addAN _ | .adcAR _ | .adcAHl | .adcAN _ | .subR _ | .subHl
    | .subN _ | .sbcAR _ | .sbcAHl | .sbcAN _ | .andR _ | .andHl | .andN _ | .xorR _ | .xorHl | .xorN _ | .orR _
    | .orHl | .orN _ | .cpR _ | .cpHl | .cpN _ | .retCc _ | .popRr _ | .jpCcNn _ _ | .jpNn _ | .callCcNn _ _
    | .pushRr _ | .ret | .callNn _ | .reti | .ldhNA _ | .ldCA | .addSpE _ | .jpHl | .ldNnA _ | .ldhAN _ | .ldAC
    | .di | .ldHlSpE _ | .ldSpHl | .ldANn _ | .ei | .illegalD3 | .illegalDB | .illegalDD | .illegalE3
    | .illegalE4 | .illegalEB | .illegalEC | .illegalED | .illegalF4 | .illegalFC | .illegalFD | .rlcR _
    | .rlcHl | .rrcR _ | .rrcHl | .rlR _ | .rlHl | .rrR _ | .rrHl | .slaR _ | .slaHl | .sraR _ | .sraHl
    | .swapR _ | .swapHl | .srlR _ | .srlHl | .bitBR _ _ | .bitBHl _ | .resBR _ _ | .resBHl _ | .setBR _ _
    | .setBHl _ => true

end Sys2Proof
end

