-- ==== Sys2Proof/Decode.lean ====
section
/-! DEFINITION. Decoding and encoding. `assemble` follows the opcode map by quadrant (30_encoding.md R150 to R154);
`encode` is written from the encoding line of each instruction's own rule, so the two are independent readings. -/

namespace Sys2Proof

open Machine

/-- `x = op[7:6]` (30_encoding.md R142). -/
def fieldX (op : Byte) : Nat := (op.extractLsb' 6 2).toNat

/-- `y = op[5:3]` (R142). -/
def fieldY (op : Byte) : BitVec 3 := op.extractLsb' 3 3

/-- `z = op[2:0]` (R142). -/
def fieldZ (op : Byte) : Nat := (op.extractLsb' 0 3).toNat

/-- `p = op[5:4]` (R142). -/
def fieldP (op : Byte) : Nat := (op.extractLsb' 4 2).toNat

/-- `q = op[3]` (R142). -/
def fieldQ (op : Byte) : Bool := op.getLsbD 3

/-- `cc = op[4:3]` (R147). -/
def fieldCc (op : Byte) : Nat := (op.extractLsb' 3 2).toNat

/-- `r8` (R144): code 6 is `(HL)`, no register. -/
def reg8OfCode : Nat → Option Reg8
  | 0 => some .b
  | 1 => some .c
  | 2 => some .d
  | 3 => some .e
  | 4 => some .h
  | 5 => some .l
  | 6 => none
  | _ => some .a

/-- `rp` (R145). -/
def regPairOfCode : Nat → RegPair
  | 0 => .bc
  | 1 => .de
  | 2 => .hl
  | _ => .sp

/-- `rp2` (R146). -/
def stackPairOfCode : Nat → StackPair
  | 0 => .bc
  | 1 => .de
  | 2 => .hl
  | _ => .af

/-- `cc` (R147). -/
def condOfCode : Nat → Cond
  | 0 => .nz
  | 1 => .z
  | 2 => .nc
  | _ => .c

/-- The operation `alu[y]` on a register or `(HL)` operand (R148, R152). -/
def aluReg (y : Nat) (v : Option Reg8) : Instr :=
  match y, v with
  | 0, some r => .addAR r
  | 0, none => .addAHl
  | 1, some r => .adcAR r
  | 1, none => .adcAHl
  | 2, some r => .subR r
  | 2, none => .subHl
  | 3, some r => .sbcAR r
  | 3, none => .sbcAHl
  | 4, some r => .andR r
  | 4, none => .andHl
  | 5, some r => .xorR r
  | 5, none => .xorHl
  | 6, some r => .orR r
  | 6, none => .orHl
  | _, some r => .cpR r
  | _, none => .cpHl

/-- The operation `alu[y]` on an immediate (R148, R153). -/
def aluImm (y : Nat) (n : Byte) : Instr :=
  match y with
  | 0 => .addAN n
  | 1 => .adcAN n
  | 2 => .subN n
  | 3 => .sbcAN n
  | 4 => .andN n
  | 5 => .xorN n
  | 6 => .orN n
  | _ => .cpN n

/-- Quadrant `x = 0` (R150). -/
def decodeQuadrant0 (op b1 b2 : Byte) : Instr :=
  let y := (fieldY op).toNat
  match fieldZ op with
  | 0 =>
    match y with
    | 0 => .nop
    | 1 => .ldNnSp (joinBytes b2 b1)
    | 2 => .stop b1
    | 3 => .jrE b1
    | _ => .jrCcE (condOfCode (fieldCc op)) b1
  | 1 => if fieldQ op then .addHlRr (regPairOfCode (fieldP op)) else .ldRrNn (regPairOfCode (fieldP op)) (joinBytes b2 b1)
  | 2 =>
    match y with
    | 0 => .ldBcA
    | 1 => .ldABc
    | 2 => .ldDeA
    | 3 => .ldADe
    | 4 => .ldHliA
    | 5 => .ldAHli
    | 6 => .ldHldA
    | _ => .ldAHld
  | 3 => if fieldQ op then .decRr (regPairOfCode (fieldP op)) else .incRr (regPairOfCode (fieldP op))
  | 4 =>
    match reg8OfCode y with
    | some r => .incR r
    | none => .incHl
  | 5 =>
    match reg8OfCode y with
    | some r => .decR r
    | none => .decHl
  | 6 =>
    match reg8OfCode y with
    | some r => .ldRN r b1
    | none => .ldHlN b1
  | _ =>
    match y with
    | 0 => .rlca
    | 1 => .rrca
    | 2 => .rla
    | 3 => .rra
    | 4 => .daa
    | 5 => .cpl
    | 6 => .scf
    | _ => .ccf

/-- Quadrant `x = 1` (R151): `0x76` is `HALT`. -/
def decodeQuadrant1 (op : Byte) : Instr :=
  match reg8OfCode (fieldY op).toNat, reg8OfCode (fieldZ op) with
  | some dst, some r => .ldRR dst r
  | some dst, none => .ldRHl dst
  | none, some r => .ldHlR r
  | none, none => .halt

/-- Quadrant `x = 3` without the prefix byte (R153). -/
def decodeQuadrant3 (op b1 b2 : Byte) : Instr :=
  let y := (fieldY op).toNat
  match fieldZ op with
  | 0 =>
    match y with
    | 4 => .ldhNA b1
    | 5 => .addSpE b1
    | 6 => .ldhAN b1
    | 7 => .ldHlSpE b1
    | _ => .retCc (condOfCode (fieldCc op))
  | 1 =>
    if fieldQ op then
      match fieldP op with
      | 0 => .ret
      | 1 => .reti
      | 2 => .jpHl
      | _ => .ldSpHl
    else .popRr (stackPairOfCode (fieldP op))
  | 2 =>
    match y with
    | 4 => .ldCA
    | 5 => .ldNnA (joinBytes b2 b1)
    | 6 => .ldAC
    | 7 => .ldANn (joinBytes b2 b1)
    | _ => .jpCcNn (condOfCode (fieldCc op)) (joinBytes b2 b1)
  | 3 =>
    match y with
    | 0 => .jpNn (joinBytes b2 b1)
    | 2 => .illegalD3
    | 3 => .illegalDB
    | 4 => .illegalE3
    | 5 => .illegalEB
    | 6 => .di
    | _ => .ei
  | 4 =>
    match y with
    | 4 => .illegalE4
    | 5 => .illegalEC
    | 6 => .illegalF4
    | 7 => .illegalFC
    | _ => .callCcNn (condOfCode (fieldCc op)) (joinBytes b2 b1)
  | 5 =>
    if fieldQ op then
      match fieldP op with
      | 0 => .callNn (joinBytes b2 b1)
      | 1 => .illegalDD
      | 2 => .illegalED
      | _ => .illegalFD
    else .pushRr (stackPairOfCode (fieldP op))
  | 6 => aluImm y b1
  | _ => .rstT ((fieldY op).setWidth 8 <<< 3)

/-- The operation `rot[y]` (R149). -/
def decodeRot (y : Nat) (v : Option Reg8) : Instr :=
  match y, v with
  | 0, some r => .rlcR r
  | 0, none => .rlcHl
  | 1, some r => .rrcR r
  | 1, none => .rrcHl
  | 2, some r => .rlR r
  | 2, none => .rlHl
  | 3, some r => .rrR r
  | 3, none => .rrHl
  | 4, some r => .slaR r
  | 4, none => .slaHl
  | 5, some r => .sraR r
  | 5, none => .sraHl
  | 6, some r => .swapR r
  | 6, none => .swapHl
  | _, some r => .srlR r
  | _, none => .srlHl

/-- The prefixed set, from its second byte (R154). -/
def decodePrefixed (op2 : Byte) : Instr :=
  let y := fieldY op2
  match fieldX op2, reg8OfCode (fieldZ op2) with
  | 0, v => decodeRot y.toNat v
  | 1, some r => .bitBR y r
  | 1, none => .bitBHl y
  | 2, some r => .resBR y r
  | 2, none => .resBHl y
  | _, some r => .setBR y r
  | _, none => .setBHl y

/-- The instruction whose first byte is `op` and whose operand bytes, as many as its length has, are `b1` and
`b2` (R155: total, every byte is a defined opcode, the prefix, or an undefined byte). -/
def assemble (op b1 b2 : Byte) : Instr :=
  if op = 0xCB then decodePrefixed b1
  else
    match fieldX op with
    | 0 => decodeQuadrant0 op b1 b2
    | 1 => decodeQuadrant1 op
    | 2 => aluReg (fieldY op).toNat (reg8OfCode (fieldZ op))
    | _ => decodeQuadrant3 op b1 b2

/-- The first bytes of the three-byte instructions (R159). -/
def threeByteOpcodes : List Byte :=
  [0x01, 0x11, 0x21, 0x31, 0x08, 0xC2, 0xCA, 0xD2, 0xDA, 0xC3, 0xC4, 0xCC, 0xD4, 0xDC, 0xCD, 0xEA, 0xFA]

/-- The first bytes of the two-byte instructions, the prefix among them (R159). -/
def twoByteOpcodes : List Byte :=
  [0xCB, 0x06, 0x0E, 0x16, 0x1E, 0x26, 0x2E, 0x36, 0x3E, 0x10, 0x18, 0x20, 0x28, 0x30, 0x38]
    ++ [0xC6, 0xCE, 0xD6, 0xDE, 0xE6, 0xEE, 0xF6, 0xFE, 0xE0, 0xF0, 0xE8, 0xF8]

/-- `length(byte0)` (R159); an undefined byte consumes one byte before it faults. -/
def lengthOf (op : Byte) : Nat :=
  if threeByteOpcodes.contains op then 3 else if twoByteOpcodes.contains op then 2 else 1

/-- Why bytes decode to nothing: fewer bytes than the first one asks for. No byte value is rejected: an
undefined byte decodes to its `illegal` instruction (R157; log 8). -/
inductive DecodeError where
  | truncated
  deriving DecidableEq, Repr

/-- Decode the instruction at the head of a list of bytes and give the rest of the list. -/
def decode : List Byte → Except DecodeError (Instr × List Byte)
  | [] => .error .truncated
  | op :: rest =>
    if rest.length < lengthOf op - 1 then .error .truncated
    else .ok (assemble op (rest.getD 0 0) (rest.getD 1 0), rest.drop (lengthOf op - 1))

/-- The bytes of an instruction as spec/opcode_table.json numbers its word: a `width` 16 row is
`(byte0 << 8) OR byte1` with `byte0 = 0xCB` (R162), any other word has its first byte in bits 7 to 0; bits above
`nbits` are 0 and the list is as long as the longest instruction (log 9). -/
def tableBytes (nbits w : Nat) : List Byte :=
  let v := w % 2 ^ nbits
  if nbits = 16 ∧ v / 256 = 0xCB then [0xCB, BitVec.ofNat 8 v, 0]
  else [BitVec.ofNat 8 v, BitVec.ofNat 8 (v / 256), BitVec.ofNat 8 (v / 65536)]

/-- The instruction the decoder reads from a word of the opcode table. -/
def decodeTableWord (nbits w : Nat) : Option Instr :=
  match decode (tableBytes nbits w) with
  | .ok (i, _) => some i
  | .error _ => none

/-- The code of a register in `r8` (R144). -/
def Reg8.code : Reg8 → Byte
  | .b => 0
  | .c => 1
  | .d => 2
  | .e => 3
  | .h => 4
  | .l => 5
  | .a => 7

/-- The code of a pair in `rp` (R145). -/
def RegPair.code : RegPair → Byte
  | .bc => 0
  | .de => 1
  | .hl => 2
  | .sp => 3

/-- The code of a pair in `rp2` (R146). -/
def StackPair.code : StackPair → Byte
  | .bc => 0
  | .de => 1
  | .hl => 2
  | .af => 3

/-- The code of a condition (R147). -/
def Cond.code : Cond → Byte
  | .nz => 0
  | .z => 1
  | .nc => 2
  | .c => 3

/-- The low byte of an immediate, then its high byte (R141 `OP_NN`). -/
def wordBytes (nn : Word) : List Byte := [loByte nn, hiByte nn]

/-- The second byte of a prefixed instruction: a base, a field in bits 5 to 3, an operand code in bits 2 to 0. -/
def prefixedBytes (base y z : Byte) : List Byte := [0xCB, base ||| (y <<< 3) ||| z]

/-- The bytes of an instruction, from the encoding line of its rule. -/
def encode : Instr → List Byte
  | .nop => [0x00]
  | .ldRrNn p nn => (0x01#8 ||| (p.code <<< 4)) :: wordBytes nn
  | .ldBcA => [0x02]
  | .incRr p => [0x03#8 ||| (p.code <<< 4)]
  | .incR r => [0x04#8 ||| (r.code <<< 3)]
  | .incHl => [0x34]
  | .decR r => [0x05#8 ||| (r.code <<< 3)]
  | .decHl => [0x35]
  | .ldRN r n => [0x06#8 ||| (r.code <<< 3), n]
  | .ldHlN n => [0x36, n]
  | .rlca => [0x07]
  | .ldNnSp nn => 0x08 :: wordBytes nn
  | .addHlRr p => [0x09#8 ||| (p.code <<< 4)]
  | .ldABc => [0x0A]
  | .decRr p => [0x0B#8 ||| (p.code <<< 4)]
  | .rrca => [0x0F]
  | .stop t => [0x10, t]
  | .ldDeA => [0x12]
  | .rla => [0x17]
  | .jrE e => [0x18, e]
  | .ldADe => [0x1A]
  | .rra => [0x1F]
  | .jrCcE cc e => [0x20#8 ||| (cc.code <<< 3), e]
  | .ldHliA => [0x22]
  | .daa => [0x27]
  | .ldAHli => [0x2A]
  | .cpl => [0x2F]
  | .ldHldA => [0x32]
  | .scf => [0x37]
  | .ldAHld => [0x3A]
  | .ccf => [0x3F]
  | .ldRR dst r => [0x40#8 ||| (dst.code <<< 3) ||| r.code]
  | .ldRHl dst => [0x46#8 ||| (dst.code <<< 3)]
  | .ldHlR r => [0x70 ||| r.code]
  | .halt => [0x76]
  | .addAR r => [0x80 ||| r.code]
  | .addAHl => [0x86]
  | .addAN n => [0xC6, n]
  | .adcAR r => [0x88 ||| r.code]
  | .adcAHl => [0x8E]
  | .adcAN n => [0xCE, n]
  | .subR r => [0x90 ||| r.code]
  | .subHl => [0x96]
  | .subN n => [0xD6, n]
  | .sbcAR r => [0x98 ||| r.code]
  | .sbcAHl => [0x9E]
  | .sbcAN n => [0xDE, n]
  | .andR r => [0xA0 ||| r.code]
  | .andHl => [0xA6]
  | .andN n => [0xE6, n]
  | .xorR r => [0xA8 ||| r.code]
  | .xorHl => [0xAE]
  | .xorN n => [0xEE, n]
  | .orR r => [0xB0 ||| r.code]
  | .orHl => [0xB6]
  | .orN n => [0xF6, n]
  | .cpR r => [0xB8 ||| r.code]
  | .cpHl => [0xBE]
  | .cpN n => [0xFE, n]
  | .retCc cc => [0xC0#8 ||| (cc.code <<< 3)]
  | .popRr p => [0xC1#8 ||| (p.code <<< 4)]
  | .jpCcNn cc nn => (0xC2#8 ||| (cc.code <<< 3)) :: wordBytes nn
  | .jpNn nn => 0xC3 :: wordBytes nn
  | .callCcNn cc nn => (0xC4#8 ||| (cc.code <<< 3)) :: wordBytes nn
  | .pushRr p => [0xC5#8 ||| (p.code <<< 4)]
  | .rstT t => [0xC7 ||| t]
  | .ret => [0xC9]
  | .callNn nn => 0xCD :: wordBytes nn
  | .reti => [0xD9]
  | .ldhNA n => [0xE0, n]
  | .ldCA => [0xE2]
  | .addSpE e => [0xE8, e]
  | .jpHl => [0xE9]
  | .ldNnA nn => 0xEA :: wordBytes nn
  | .ldhAN n => [0xF0, n]
  | .ldAC => [0xF2]
  | .di => [0xF3]
  | .ldHlSpE e => [0xF8, e]
  | .ldSpHl => [0xF9]
  | .ldANn nn => 0xFA :: wordBytes nn
  | .ei => [0xFB]
  | .illegalD3 => [0xD3]
  | .illegalDB => [0xDB]
  | .illegalDD => [0xDD]
  | .illegalE3 => [0xE3]
  | .illegalE4 => [0xE4]
  | .illegalEB => [0xEB]
  | .illegalEC => [0xEC]
  | .illegalED => [0xED]
  | .illegalF4 => [0xF4]
  | .illegalFC => [0xFC]
  | .illegalFD => [0xFD]
  | .rlcR r => prefixedBytes 0x00 0 r.code
  | .rlcHl => prefixedBytes 0x00 0 6
  | .rrcR r => prefixedBytes 0x08 0 r.code
  | .rrcHl => prefixedBytes 0x08 0 6
  | .rlR r => prefixedBytes 0x10 0 r.code
  | .rlHl => prefixedBytes 0x10 0 6
  | .rrR r => prefixedBytes 0x18 0 r.code
  | .rrHl => prefixedBytes 0x18 0 6
  | .slaR r => prefixedBytes 0x20 0 r.code
  | .slaHl => prefixedBytes 0x20 0 6
  | .sraR r => prefixedBytes 0x28 0 r.code
  | .sraHl => prefixedBytes 0x28 0 6
  | .swapR r => prefixedBytes 0x30 0 r.code
  | .swapHl => prefixedBytes 0x30 0 6
  | .srlR r => prefixedBytes 0x38 0 r.code
  | .srlHl => prefixedBytes 0x38 0 6
  | .bitBR b r => prefixedBytes 0x40 (b.setWidth 8) r.code
  | .bitBHl b => prefixedBytes 0x40 (b.setWidth 8) 6
  | .resBR b r => prefixedBytes 0x80 (b.setWidth 8) r.code
  | .resBHl b => prefixedBytes 0x80 (b.setWidth 8) 6
  | .setBR b r => prefixedBytes 0xC0 (b.setWidth 8) r.code
  | .setBHl b => prefixedBytes 0xC0 (b.setWidth 8) 6

end Sys2Proof
end

