-- ==== Sys2Proof/Machine/Fetch.lean ====
section
/-! DEFINITION. Fetching an instruction byte by byte (30_encoding.md R140, R155), and placing bytes where the engine
fetches them, for the host. -/

namespace Sys2Proof.Machine

/-- Fetch `byte0`, then as many bytes as it asks for, and decode (30_encoding.md R155; 60_exceptions.md R330). -/
def fetchInstr (s : State) : Result (Instr × State) :=
  chain (fetch8 s) fun p =>
    chain (fetchBytes (lengthOf p.1 - 1) p.2) fun q =>
      .next (assemble p.1 (q.1.getD 0 0) (q.1.getD 1 0), q.2)

/-- Put a byte in a buffer, if the index is inside it. -/
def pokeBuffer (sp : Space) (b : Buffer) (i : Nat) (v : Byte) : Buffer :=
  if i < b.len then { b with cells := storeCell sp b.cells i v } else b

/-- Put a byte in the store that answers reads of an address. The joypad register has no such store (log 10). -/
def pokeByte (a : Word) (v : Byte) (s : State) : State :=
  match route a with
  | .romFixed => { s with cart := { s.cart with rom := pokeBuffer .rom s.cart.rom a.toNat v } }
  | .romSwitch => { s with cart := { s.cart with rom := pokeBuffer .rom s.cart.rom (romBankedIndex s.cart a.toNat) v } }
  | .cartRam => { s with cart := { s.cart with ram := pokeBuffer .ram s.cart.ram (ramBankedIndex s.cart a.toNat) v } }
  | .joypad => s
  | .serial => { s with serialByte := v }
  | .videoRam | .workRam | .sprite | .gap | .io => setFlat a v s

/-- Put bytes at consecutive addresses. -/
def pokeBytes : Word → List Byte → State → State
  | _, [], s => s
  | a, v :: rest, s => pokeBytes (a + 1) rest (pokeByte a v s)

/-- Make the next call of `step()` an instruction step: the engine runs, and no dispatch is due (log 10). -/
def readyToFetch (s : State) : State :=
  if dispatches s then { s with runState := .running, ime := false } else { s with runState := .running }

end Sys2Proof.Machine
end

