-- ==== Sys2Proof/Machine/Step.lean ====
section
/-! DEFINITION. One call of `step()` (60_exceptions.md R330). -/

namespace Sys2Proof.Machine

/-- Case (3): fetch, decode, execute, promote. -/
def instructionStep (s : State) : Result State :=
  chain (fetchInstr s) fun p => chain (exec p.1 p.2) fun u => .next (promote s.imePending u)

/-- One call of `step()`: an idle step, an interrupt dispatch, or one instruction, tested in this order. -/
def step (s : State) : Host.Outcome State Fault Refusal :=
  if idles s then .next (s.took 4)
  else if dispatches s then takeInterrupt (wake s)
  else instructionStep (wake s)

/-- `s` with an instruction of the opcode table where the engine fetches next, and ready to fetch it. -/
def State.withFetchWord (s : State) (nbits w : Nat) : State :=
  readyToFetch (pokeBytes s.regs.pc (tableBytes nbits w) s)

end Sys2Proof.Machine
end

