-- ==== Sys2Proof/Machine/Agents.lean ====
section
/-! DEFINITION. The moves of the other agents (00_scope.md R12): the environment (60_exceptions.md R322), the host's
persistence flush (70_reset_and_hazards.md R392) and its Timing Driver (R390, R391). Each move is atomic and comes
between two steps (log 5). -/

namespace Sys2Proof.Machine

/-- The environment sets request bits: `IF <- IF OR m` for any 5-bit mask (60_exceptions.md R322). -/
def envRequest (m : BitVec 5) (s : State) : State := setFlat 0xFF0F (ifReg s ||| m.setWidth 8) s

/-- The byte of the I/O page that stands behind an address becomes `v`: `joyp_select` behind `0xFF00` (the two bits it
has), `serial_byte` behind `0xFF01`, else the byte of `flat`. An address below the page is no I/O byte and nothing is
overwritten. DESIGN CHOICE (log 21). -/
def overwriteIoByte (a : Word) (v : Byte) (s : State) : State :=
  match route a with
  | .joypad => { s with joypSelect := v.extractLsb' 4 2 }
  | .serial => { s with serialByte := v }
  | .io => setFlat a v s
  | .romFixed | .romSwitch | .videoRam | .cartRam | .workRam | .sprite | .gap => s

/-- The environment overwrites an I/O byte listed in `env_writable` (60_exceptions.md R322). Which addresses the list may
name, `0xFF00`, `0xFF01`, `IF` and `IE` among them, and which byte is then overwritten, the spec leaves open: DESIGN
CHOICE (log 21). -/
def envOverwrite (p : Params) (a : Word) (v : Byte) (s : State) : State :=
  if a ∈ p.envWritable then overwriteIoByte a v s else s

/-- The answer of the persistence collaborator (70_reset_and_hazards.md R392), a free input. -/
inductive PersistResult where
  | ok
  | ioError
  deriving DecidableEq, Repr

/-- The state after a flush: `dirty` is cleared only on success (70_reset_and_hazards.md R392). -/
def persistFlush (r : PersistResult) (s : State) : State :=
  match r with
  | .ok => { s with dirty := false }
  | .ioError => s

/-- The buffer a flush hands to the collaborator, when it calls it (70_reset_and_hazards.md R392). -/
def flushExport (s : State) : Option (List Byte) := if s.dirty then some (exportRam s.cart) else none

/-- The failure a flush reports (60_exceptions.md R314). -/
def flushFault (r : PersistResult) (s : State) : Option Fault :=
  match r with
  | .ok => none
  | .ioError => if s.dirty then some .ioError else none

/-- One atomic move of one of the three agents (00_scope.md R12). -/
inductive Move where
  | step
  | request (m : BitVec 5)
  | overwrite (a : Word) (v : Byte)
  | flush (r : PersistResult)
  deriving DecidableEq, Repr

/-- Make one move. -/
def act (p : Params) (m : Move) (s : State) : Result State :=
  match m with
  | .step => step s
  | .request mask => .next (envRequest mask s)
  | .overwrite a v => .next (envOverwrite p a v s)
  | .flush r => .next (persistFlush r s)

/-- Make moves one after another. -/
def actAll (p : Params) : List Move → State → Result State
  | [], s => .next s
  | m :: rest, s => chain (act p m s) (actAll p rest)

/-- The cycle budget of a frame, integer division (70_reset_and_hazards.md R390). -/
def frameBudget (p : Params) : Nat := (p.speedMultiplier + 1) * p.clockRate / p.framesPerSecond

/-- `run_frame()` from a count (70_reset_and_hazards.md R391): steps until the budget is met or exceeded. `fuel`
bounds the recursion; a step costs at least 4 cycles, so `frameBudget p` steps are enough (log 16). -/
def runFrameFrom (p : Params) : Nat → Nat → State → Result (Nat × State)
  | 0, count, s => .next (count, s)
  | fuel + 1, count, s =>
    if count < frameBudget p then chain (step s) fun t => runFrameFrom p fuel (count + t.cycles) t
    else .next (count, s)

/-- `run_frame()`: every frame starts its count at 0 (70_reset_and_hazards.md R391). -/
def runFrame (p : Params) (s : State) : Result (Nat × State) := runFrameFrom p (frameBudget p) 0 s

end Sys2Proof.Machine
end

