-- ==== Sys2Proof/Machine/Load.lean ====
section
/-! DEFINITION. Loading a cartridge (20_memory.md R70 to R78) and power-on (70_reset_and_hazards.md R360 to R363). -/

namespace Sys2Proof.Machine

/-- The RAM buffer of a cartridge: the save if there is one, else `ram_bank_count * 0x2000` bytes of `0x00`, and
empty for No-Banking (20_memory.md R71, 10_state.md R39). -/
def initialRam (v : Variant) (ramBanks : Nat) (save : Option Buffer) : Buffer :=
  match v, save with
  | .noBanking, _ => ⟨0, []⟩
  | .bankSwitching, some b => b
  | .bankSwitching, none => ⟨ramBanks * 0x2000, []⟩

/-- A cartridge with its bank registers at their reset values (10_state.md R40 to R43). -/
def freshCartridge (v : Variant) (romBanks ramBanks : Nat) (raw : Buffer) (save : Option Buffer) : Cartridge where
  variant := v
  romBankCount := romBanks
  ramBankCount := ramBanks
  rom := raw
  ram := initialRam v ramBanks save
  romBank := 1
  ramBank := 0
  ramEnable := false
  bankMode := .romBanking

/-- The save, when present, has exactly the length of the RAM buffer (93_implementation_defined.md U22). -/
def saveLengthOk (ramBanks : Nat) (save : Option Buffer) : Bool :=
  match save with
  | some b => decide (b.len = ramBanks * 0x2000)
  | none => true

/-- `load(raw_bytes)` (20_memory.md R71): the type byte, the two size bytes, then the launch premises. An image too
short to hold the header is no launch state (log 14). -/
def load (p : Params) (raw : Buffer) (save : Option Buffer) : Result Cartridge :=
  let header := loadCell .rom raw.cells
  if raw.len ≤ max p.typeOff (max p.romszOff p.ramszOff) then .refused .launchRomLength
  else
    match p.typeTable (header p.typeOff) with
    | none => .fault (.unsupportedCartridgeType (header p.typeOff))
    | some v =>
      match p.romBankTable (header p.romszOff) with
      | none => .fault (.unsupportedCartridgeType (header p.romszOff))
      | some romBanks =>
        match p.ramBankTable (header p.ramszOff) with
        | none => .fault (.unsupportedCartridgeType (header p.ramszOff))
        | some ramBanks =>
          if raw.len ≠ romBanks * 0x4000 ∨ raw.len < 0x8000 then .refused .launchRomLength
          else if saveLengthOk ramBanks save then .next (freshCartridge v romBanks ramBanks raw save)
          else .refused .launchSaveLength

/-- `read_boot_window(a)` (20_memory.md R77). -/
def readBootWindow (c : Cartridge) (a : Nat) : Byte := loadCell .rom c.rom.cells a

/-- The flat array after power-on: the boot window below `0x8000` (70_reset_and_hazards.md R361; log 17) and
`io_defaults` in the I/O page (R362). -/
def initialFlat (p : Params) (c : Cartridge) : Memory :=
  (List.range 0x100).foldl (fun m i => storeCell .flat m (0xFF00 + i) (p.ioDefaults (0xFF00 + i)))
    (c.rom.cells.filter fun cell => decide (cell.1 < 0x8000))

/-- Power-on with a loaded cartridge (70_reset_and_hazards.md R360). -/
def powerOn (p : Params) (c : Cartridge) : State := { State.reset with cart := c, flat := initialFlat p c }

end Sys2Proof.Machine
end

