-- ==== Sys2Proof/Safety.lean ====
section
/-! DEFINITION. The terms claims are stated in: which accesses do not fault, the invariant of the block, and what an
instruction leaves unchanged. -/

namespace Sys2Proof.Machine

/-- A Router read of `a` stays inside its buffer (20_memory.md R90). -/
def Readable (s : State) (a : Word) : Bool :=
  match route a with
  | .romFixed => decide (a.toNat < s.cart.rom.len)
  | .romSwitch => decide (romBankedIndex s.cart a.toNat < s.cart.rom.len)
  | .cartRam =>
    decide (s.cart.variant = .noBanking) || !s.cart.ramEnable
      || (decide (s.cart.ramBankCount ≠ 0) && decide (ramBankedIndex s.cart a.toNat < s.cart.ram.len))
  | _ => true

/-- A Router write to `a` stays inside its buffer (20_memory.md R90). -/
def Writable (s : State) (a : Word) : Bool :=
  match route a with
  | .cartRam =>
    decide (s.cart.variant = .noBanking) || !s.cart.ramEnable
      || (decide (s.cart.ramBankCount ≠ 0) && decide (ramBankedIndex s.cart a.toNat < s.cart.ram.len))
  | _ => true

/-- A buffer of `n` bytes in canonical form, every listed address inside it. -/
def Buffer.holds (sp : Space) (n : Nat) (b : Buffer) : Bool :=
  decide (b.len = n) && b.cells.wf sp && b.cells.below n

/-- The bank register invariant of the Bank-Switching variant (10_state.md R40, R43). -/
def bankRegsOk (c : Cartridge) : Bool :=
  decide (c.romBank ≠ 0)
    && match c.bankMode with
      | .romBanking => decide (c.ramBank = 0)
      | .ramBanking => decide (c.romBank &&& 0xE0 = 0)

/-- The cartridge meets the launch premises and the bank register invariant (20_memory.md R71; 10_state.md R38, R39,
R40, R43). -/
def Cartridge.ok (c : Cartridge) : Bool :=
  decide (2 ≤ c.romBankCount) && c.rom.holds .rom (c.romBankCount * 0x4000)
    && match c.variant with
      | .noBanking => c.ram.holds .ram 0
      | .bankSwitching => c.ram.holds .ram (c.ramBankCount * 0x2000) && bankRegsOk c

/-- The invariant of the block: canonical stores of the right size, launch premises, bank register invariant, and
`F[3:0] = 0` (10_state.md R22). -/
def StateOk (s : State) : Bool :=
  s.flat.wf .flat && s.flat.below 0x10000 && s.cart.ok && decide (s.regs.f &&& 0x0F = 0)

/-- The cartridge has RAM wherever its RAM can be enabled: the one reachable `BankIndexOutOfRange` is excluded
(60_exceptions.md R312). -/
def RamPresent (s : State) : Bool := decide (s.cart.variant = .noBanking) || decide (s.cart.ramBankCount ≠ 0)

/-- The four flags of `F`, and its low nibble zero (10_state.md R22). -/
def FlagsAre (f : Byte) (z n h c : Bool) : Prop :=
  f.getLsbD 7 = z ∧ f.getLsbD 6 = n ∧ f.getLsbD 5 = h ∧ f.getLsbD 4 = c ∧ f.extractLsb' 0 4 = 0#4

/-- A condition of a conditional transfer, as the spec words it (30_encoding.md R147). -/
def CondTrue (cc : Cond) (f : Byte) : Prop :=
  match cc with
  | .nz => f.getLsbD 7 = false
  | .z => f.getLsbD 7 = true
  | .nc => f.getLsbD 4 = false
  | .c => f.getLsbD 4 = true

/-- Flag C as an integer (42_alu8.md). -/
def carryOf (s : State) : Nat := if s.regs.f.getLsbD 4 then 1 else 0

/-- Whatever bytes follow, these bytes decode to this instruction and all of them are consumed. -/
def Decodes (bytes : List Byte) (i : Instr) : Prop := ∀ rest, decode (bytes ++ rest) = .ok (i, rest)

/-- What a completed Router write of `v` to `a` did, by the first matching line of 20_memory.md R101, with everything it
left unchanged. The frame is in the model's read of one byte: a write to `0x8000` or above changes what no other address
reads as; a control write changes at most what the two switchable windows show, and stores nothing. -/
def StoreEffect (s u : State) (a : Word) (v : Byte) : Prop :=
  (if a.toNat < 0x8000 then u = { s with cart := handleControlWrite s.cart a.toNat v }
    else if a.toNat < 0xA000 then u = { s with flat := u.flat } ∧ flatByte a u = v
    else if a.toNat < 0xC000 then
      if s.cart.variant = .bankSwitching ∧ s.cart.ramEnable = true then
        u = { s with dirty := true, cart := { s.cart with ram := u.cart.ram } } ∧ readByte a u = .next v
          ∧ u.cart.ram.len = s.cart.ram.len
          ∧ ∀ k, k ≠ ramBankedIndex s.cart a.toNat → loadCell .ram u.cart.ram.cells k = loadCell .ram s.cart.ram.cells k
      else u = s
    else if a.toNat < 0xFF00 then u = { s with flat := u.flat } ∧ flatByte a u = v
    else if a.toNat = 0xFF00 then u = { s with joypSelect := v.extractLsb' 4 2 }
    else if a.toNat = 0xFF01 then u = { s with serialByte := v }
    else u = { s with flat := u.flat } ∧ flatByte a u = v)
  ∧ (∀ b, b ≠ a → flatByte b u = flatByte b s)
  ∧ (0x8000 ≤ a.toNat → ∀ b, b ≠ a → readByte b u = readByte b s)
  ∧ (a.toNat < 0x8000 → u.cart.rom = s.cart.rom ∧ u.cart.ram = s.cart.ram
      ∧ ∀ b : Word, b.toNat < 0x4000 ∨ (0x8000 ≤ b.toNat ∧ b.toNat < 0xA000) ∨ 0xC000 ≤ b.toNat → readByte b u = readByte b s)

/-- What a completed `Push16(v)` did to memory: the high byte at `SP - 1`, then the low byte at `SP - 2`
(00_scope.md R10). -/
def PushEffect (s u : State) (v : Word) : Prop :=
  ∃ m, StoreEffect s m (s.regs.sp - 1) (v.extractLsb' 8 8) ∧ StoreEffect m u (s.regs.sp - 2) (v.extractLsb' 0 8)

/-- Both bytes of a push stay inside their buffers. -/
def Pushable (s : State) : Bool := Writable s (s.regs.sp - 1) && Writable s (s.regs.sp - 2)

/-- Both bytes of a pop stay inside their buffers. -/
def Poppable (s : State) : Bool := Readable s s.regs.sp && Readable s (s.regs.sp + 1)

/-- The two bytes a pop reads, and the state after the reads. -/
def PopsBytes (s base : State) (hi lo : Byte) : Prop :=
  readByte s.regs.sp s = .next lo ∧ readByte (s.regs.sp + 1) (afterRead s.regs.sp s) = .next hi
    ∧ base = afterRead (s.regs.sp + 1) (afterRead s.regs.sp s)

/-- The instruction completes from `s`; it changes `base` in `A`, in the four flags and in the cost returned only. -/
def SetsAF (i : Instr) (s base : State) (cost : Nat) (acc : Byte) (z n h c : Bool) : Prop :=
  ∃ f, FlagsAre f z n h c ∧ exec i s = .next { base with regs := { s.regs with a := acc, f := f }, cycles := cost }

/-- The instruction completes from `s`; it changes register `r`, the four flags and the cost returned only. -/
def SetsRegF (i : Instr) (r : Reg8) (s : State) (cost : Nat) (v : Byte) (z n h c : Bool) : Prop :=
  ∃ f, FlagsAre f z n h c ∧ exec i s = .next { s with regs := { s.regs.set8 r v with f := f }, cycles := cost }

/-- The instruction completes from `s`; it stores `v` at `HL` after reading there, and changes the four flags and the
cost returned besides. -/
def SetsHlF (i : Instr) (s : State) (cost : Nat) (v : Byte) (z n h c : Bool) : Prop :=
  ∃ f u, FlagsAre f z n h c ∧ StoreEffect (afterRead s.regs.hl s) u s.regs.hl v
    ∧ exec i s = .next { u with regs := { s.regs with f := f }, cycles := cost }

/-- A fault of the read at `a` is the outcome of the instruction (20_memory.md R113). -/
def ReadFaultStops (i : Instr) (a : Word) (s : State) : Prop := ∀ e, readByte a s = .fault e → exec i s = .fault e

/-- A fault of the write of `v` to `a` is the outcome of the instruction (20_memory.md R113). -/
def WriteFaultStops (i : Instr) (a : Word) (v : Byte) (s : State) : Prop := ∀ e, busWrite a v s = .fault e → exec i s = .fault e

/-- An access of the instruction faults, and that is its outcome (20_memory.md R90, R113). -/
def StopsOnAccess (i : Instr) (s : State) : Prop := ∃ k, exec i s = .fault (.bankIndexOutOfRange k)

/-- The three forms of an accumulator operation (42_alu8.md R210): `done i s base cost v` says that instruction `i`
completes from `s` with operand `v` at this cost, `base` being the state after the operand was read. -/
def AccForms (reg : Reg8 → Instr) (mem : Instr) (imm : Byte → Instr) (y : Byte)
    (done : Instr → State → State → Nat → Byte → Prop) : Prop :=
  (∀ r : Reg8, Decodes [0x80#8 ||| (y <<< 3) ||| r.code] (reg r)) ∧ Decodes [0x86#8 ||| (y <<< 3)] mem
    ∧ (∀ n, Decodes [0xC6#8 ||| (y <<< 3), n] (imm n))
    ∧ ∀ s : State, (∀ r, done (reg r) s s 4 (s.regs.get8 r)) ∧ (∀ n, done (imm n) s s 8 n)
      ∧ (Readable s s.regs.hl = true →
          ∃ v, readByte s.regs.hl s = .next v ∧ done mem s (afterRead s.regs.hl s) 8 v)
      ∧ ReadFaultStops mem s.regs.hl s

/-- Both forms of a rotate or shift (44_rotate_shift_bit.md R250, R255 to R262): `res w c` is the result for operand `w`
and old carry `c`, `out w` the bit that becomes flag C; Z is computed from the result. -/
def RotForms (reg : Reg8 → Instr) (mem : Instr) (y : Byte) (res : Byte → Bool → Byte) (out : Byte → Bool) : Prop :=
  (∀ r : Reg8, Decodes [0xCB, (y <<< 3) ||| r.code] (reg r)) ∧ Decodes [0xCB, (y <<< 3) ||| 6] mem
    ∧ ∀ s : State,
      (∀ r, SetsRegF (reg r) r s 8 (res (s.regs.get8 r) (s.regs.f.getLsbD 4))
          (decide (res (s.regs.get8 r) (s.regs.f.getLsbD 4) = 0)) false false (out (s.regs.get8 r)))
      ∧ (StateOk s = true → Readable s s.regs.hl = true → Writable s s.regs.hl = true →
          ∃ w, readByte s.regs.hl s = .next w
            ∧ SetsHlF mem s 16 (res w (s.regs.f.getLsbD 4)) (decide (res w (s.regs.f.getLsbD 4) = 0)) false false (out w))
      ∧ ReadFaultStops mem s.regs.hl s

/-- A load of one byte from `a`: the instruction completes, `put` says where the byte goes, and nothing else but the cost
returned changes. -/
def LoadsByte (i : Instr) (a : Word) (s : State) (cost : Nat) (put : Byte → Regs) : Prop :=
  (Readable s a = true →
    ∃ v, readByte a s = .next v ∧ exec i s = .next { afterRead a s with regs := put v, cycles := cost })
  ∧ ReadFaultStops i a s

/-- A store of one byte to `a`: the instruction completes, the registers become `g`, and nothing else but the store and
the cost returned changes. -/
def StoresByte (i : Instr) (a : Word) (v : Byte) (s : State) (cost : Nat) (g : Regs) : Prop :=
  (StateOk s = true → Writable s a = true →
    ∃ u, StoreEffect s u a v ∧ exec i s = .next { u with regs := g, cycles := cost })
  ∧ WriteFaultStops i a v s

/-- `n` bytes from address `a` on, read through the Router without changing the state. -/
def bytesAt (s : State) : Word → Nat → Option (List Byte)
  | _, 0 => some []
  | a, n + 1 =>
    match readByte a s, bytesAt s (a + 1) n with
    | .next v, some rest => some (v :: rest)
    | _, _ => none

/-- The state after the reads of `n` bytes from address `a` on (20_memory.md R100, R108). -/
def afterReads : Word → Nat → State → State
  | _, 0, s => s
  | a, n + 1, s => afterReads (a + 1) n (afterRead a s)

/-- The state in which the meaning of an instruction of `n` bytes runs: awake, its bytes read, `PC` past it
(10_state.md R24). -/
def fetched (n : Nat) (s : State) : State :=
  (afterReads s.regs.pc n (wake s)).setPc (s.regs.pc + BitVec.ofNat 16 n)

/-- The call is an instruction step (60_exceptions.md R330 case 3). -/
def runsInstruction (s : State) : Bool := !idles s && !dispatches s

end Sys2Proof.Machine
end

