-- ==== Sys2Proof/Certificates/Slice0/Obligations.lean ====
section
/-! DEFINITION. The statements for the provers. In a statement about `exec`, `s` is the state in which the meaning runs:
the instruction's bytes have been fetched and `PC` is past them (10_state.md R24); `StepRunsDecoded` says how a call of
`step()` reaches it. An equation `exec i s = .next { .. with .. }` gives the whole next state, so it is the frame too. -/

section

open Sys2Proof Sys2Proof.Machine

/-! ### Encoding -/

/-- 30_encoding.md R140 to R154: decoding the bytes of a well-formed instruction gives it back, with every operand at
every value, and leaves the bytes that follow. -/
def Obligations.DecodeEncode : Prop :=
  ∀ (i : Instr) (rest : List Byte), i.wellFormed = true → decode (encode i ++ rest) = .ok (i, rest)

/-- 30_encoding.md R155, R159: decoding is total on bytes long enough for their first byte, reads exactly the bytes of
the instruction it gives, and gives a well-formed one. -/
def Obligations.EncodeDecode : Prop :=
  ∀ (op : Byte) (bytes : List Byte),
    (lengthOf op ≤ bytes.length + 1 → ∃ i rest, decode (op :: bytes) = .ok (i, rest))
    ∧ ∀ i rest, decode (op :: bytes) = .ok (i, rest) →
        i.wellFormed = true ∧ encode i ++ rest = op :: bytes ∧ (encode i).length = lengthOf op

/-- Words of each family, written from the encodings of the rules (30_encoding.md R150 to R154). -/
def Obligations.SampleWords : Prop :=
  Decodes [0x78#8] (.ldRR .a .b) ∧ Decodes [0x36#8, 0x0A] (.ldHlN 0x0A) ∧ Decodes [0x31#8, 0xFE, 0xFF] (.ldRrNn .sp 0xFFFE)
    ∧ Decodes [0xF5#8] (.pushRr .af) ∧ Decodes [0x9E#8] .sbcAHl ∧ Decodes [0xFE#8, 0x3F] (.cpN 0x3F)
    ∧ Decodes [0x29#8] (.addHlRr .hl) ∧ Decodes [0xCB#8, 0x37] (.swapR .a) ∧ Decodes [0xCB#8, 0x7E] (.bitBHl 7)
    ∧ Decodes [0xDA#8, 0x50, 0x01] (.jpCcNn .c 0x0150) ∧ Decodes [0xEF#8] (.rstT 0x28) ∧ Decodes [0x76#8] .halt
    ∧ Decodes [0xD3#8] .illegalD3

/-- 30_encoding.md R157: each of the eleven undefined bytes is decoded alone, and its instruction stops with
`InvalidOpcode` of that byte. -/
def Obligations.UndefinedBytesStop : Prop :=
  ∀ s : State,
    (Decodes [0xD3] .illegalD3 ∧ exec .illegalD3 s = .fault (.invalidOpcode 0xD3))
    ∧ (Decodes [0xDB] .illegalDB ∧ exec .illegalDB s = .fault (.invalidOpcode 0xDB))
    ∧ (Decodes [0xDD] .illegalDD ∧ exec .illegalDD s = .fault (.invalidOpcode 0xDD))
    ∧ (Decodes [0xE3] .illegalE3 ∧ exec .illegalE3 s = .fault (.invalidOpcode 0xE3))
    ∧ (Decodes [0xE4] .illegalE4 ∧ exec .illegalE4 s = .fault (.invalidOpcode 0xE4))
    ∧ (Decodes [0xEB] .illegalEB ∧ exec .illegalEB s = .fault (.invalidOpcode 0xEB))
    ∧ (Decodes [0xEC] .illegalEC ∧ exec .illegalEC s = .fault (.invalidOpcode 0xEC))
    ∧ (Decodes [0xED] .illegalED ∧ exec .illegalED s = .fault (.invalidOpcode 0xED))
    ∧ (Decodes [0xF4] .illegalF4 ∧ exec .illegalF4 s = .fault (.invalidOpcode 0xF4))
    ∧ (Decodes [0xFC] .illegalFC ∧ exec .illegalFC s = .fault (.invalidOpcode 0xFC))
    ∧ (Decodes [0xFD] .illegalFD ∧ exec .illegalFD s = .fault (.invalidOpcode 0xFD))

/-! ### The step -/

/-- 60_exceptions.md R330 case 3, 10_state.md R24: when the call is an instruction step and the bytes at `PC` decode to
`i`, the call runs `i` with its bytes read and `PC` past them, then promotes a pending enable. -/
def Obligations.StepRunsDecoded : Prop :=
  ∀ (s : State) (bytes : List Byte) (i : Instr),
    runsInstruction s = true → bytesAt s s.regs.pc bytes.length = some bytes → decode bytes = .ok (i, []) →
      (∀ u, exec i (fetched bytes.length s) = .next u →
        step s = .next (if s.imePending = true ∧ u.imePending = true then { u with ime := true, imePending := false } else u))
      ∧ ∀ e, exec i (fetched bytes.length s) = .fault e → step s = .fault e

/-- 60_exceptions.md R311: in an instruction step a fetched byte that is undefined stops the call with `InvalidOpcode`
of that byte, and only a call that finds such a byte at `PC` does. -/
def Obligations.UndefinedByteStopsStep : Prop :=
  ∀ s : State,
    (∀ op : Byte, runsInstruction s = true → readByte s.regs.pc s = .next op →
      op ∈ [0xD3#8, 0xDB, 0xDD, 0xE3, 0xE4, 0xEB, 0xEC, 0xED, 0xF4, 0xFC, 0xFD] → step s = .fault (.invalidOpcode op))
    ∧ ∀ op : Byte, step s = .fault (.invalidOpcode op) →
        runsInstruction s = true ∧ readByte s.regs.pc s = .next op
          ∧ op ∈ [0xD3#8, 0xDB, 0xDD, 0xE3, 0xE4, 0xEB, 0xEC, 0xED, 0xF4, 0xFC, 0xFD]

/-- 60_exceptions.md R330 case 1, R346: a call that finds the engine halted and nothing pending changes nothing and
costs 4 cycles. -/
def Obligations.HaltedIdleStep : Prop :=
  ∀ s : State, s.runState = .halted → flatByte 0xFF0F s &&& flatByte 0xFFFF s &&& 0x1F = 0 →
    step s = .next { s with cycles := 4 }

/-- 60_exceptions.md R331, R321, R330 case 2: with `IME` set and a request pending, the call takes the interrupt of the
lowest pending bit `b`: `IME` and `ime_pending` cleared, bit `b` of `IF` cleared and no other, `PC` pushed, `PC` at
`0x0040 + 8 * b`, 20 cycles, the engine running; `q` is the state when the push begins. A push that leaves its buffer
stops the call. -/
def Obligations.InterruptEntry : Prop :=
  ∀ (s : State) (b : Nat), StateOk s = true → s.ime = true →
    (flatByte 0xFF0F s &&& flatByte 0xFFFF s &&& 0x1F).getLsbD b = true →
    (∀ k, k < b → (flatByte 0xFF0F s &&& flatByte 0xFFFF s &&& 0x1F).getLsbD k = false) →
      (Pushable s = true →
        ∃ q u, q = { s with flat := q.flat, ime := false, imePending := false, runState := .running }
          ∧ flatByte 0xFF0F q = flatByte 0xFF0F s &&& ~~~(1#8 <<< b)
          ∧ (∀ a, a ≠ 0xFF0F → flatByte a q = flatByte a s)
          ∧ PushEffect q u s.regs.pc
          ∧ step s = .next { u with
              regs := { s.regs with sp := s.regs.sp - 2, pc := BitVec.ofNat 16 (0x40 + 8 * b) }, cycles := 20 })
      ∧ (Pushable s = false → ∃ k, step s = .fault (.bankIndexOutOfRange k))

/-- 60_exceptions.md R330: a call of `step()` is never refused; it answers a next state whose cost is one of
4, 8, 12, 16, 20, 24, or one of the two faults a step can raise (R310, R313, R314). -/
def Obligations.StepOutcomes : Prop :=
  ∀ s : State,
    (∃ t, step s = .next t ∧ t.cycles ∈ [4, 8, 12, 16, 20, 24]) ∨ (∃ op, step s = .fault (.invalidOpcode op))
      ∨ ∃ k, step s = .fault (.bankIndexOutOfRange k)

/-- 60_exceptions.md R312, 20_memory.md R90: from a state that meets the invariant, `BankIndexOutOfRange` can come only
from a Bank-Switching cartridge with no RAM banks, and its index is an offset into the RAM window. -/
def Obligations.BankFaultNeedsMissingRam : Prop :=
  ∀ (s : State) (k : Nat), StateOk s = true → step s = .fault (.bankIndexOutOfRange k) →
    s.cart.variant = .bankSwitching ∧ s.cart.ramBankCount = 0 ∧ k < 0x2000

/-! ### Invariants and whole-machine rules -/

/-- 10_state.md R22, R38 to R40, R43: every step keeps the invariant (stores canonical and of the right size, bank
registers legal, `F[3:0] = 0`), from every state that meets it. -/
def Obligations.StepKeepsInv : Prop := ∀ s t : State, StateOk s = true → step s = .next t → StateOk t = true

/-- The moves of the environment and of the host keep the invariant too (60_exceptions.md R322,
70_reset_and_hazards.md R392; log 5). -/
def Obligations.MovesKeepInv : Prop :=
  ∀ (p : Params) (moves : List Move) (s t : State), StateOk s = true → actAll p moves s = .next t → StateOk t = true

/-- The state after reset meets the invariant (its cartridge is the model's choice, log 1). -/
def Obligations.ResetInv : Prop := StateOk State.reset = true

/-- 70_reset_and_hazards.md R360, 20_memory.md R71: power-on with a cartridge that `load` accepts gives a state that
meets the invariant, for every image and save held in canonical form and whatever the tables. -/
def Obligations.PowerOnInv : Prop :=
  ∀ (p : Params) (raw : Buffer) (save : Option Buffer) (c : Cartridge),
    raw.cells.wf .rom = true → raw.cells.below raw.len = true →
    (∀ b, save = some b → b.cells.wf .ram = true ∧ b.cells.below b.len = true) →
    load p raw save = .next c → StateOk (powerOn p c) = true

/-- 10_state.md R36, R38, R46, 20_memory.md R92: no step changes the cartridge's properties, a byte of the ROM, a byte
of `flat` below `0x8000`, or the two counters no rule writes. -/
def Obligations.StepKeepsImmutable : Prop :=
  ∀ s t : State, step s = .next t →
    t.cart.variant = s.cart.variant ∧ t.cart.romBankCount = s.cart.romBankCount
      ∧ t.cart.ramBankCount = s.cart.ramBankCount ∧ t.cart.rom = s.cart.rom ∧ t.cart.ram.len = s.cart.ram.len
      ∧ (∀ a : Word, a.toNat < 0x8000 → flatByte a t = flatByte a s)
      ∧ t.divCounter = s.divCounter ∧ t.timerCounter = s.timerCounter

/-- 10_state.md R31, 20_memory.md R104: a step never clears `dirty`, sets it only on a Bank-Switching cartridge, and
while `dirty` stays clear no byte of the cartridge RAM has changed. -/
def Obligations.DirtySignal : Prop :=
  ∀ s t : State, step s = .next t →
    (s.dirty = true → t.dirty = true) ∧ (t.dirty = false → t.cart.ram = s.cart.ram)
      ∧ (s.dirty = false → t.dirty = true → s.cart.variant = .bankSwitching)

/-- 10_state.md R26, 60_exceptions.md R332: a step raises `IME` only by promoting an enable that was pending before it,
or by running `RETI`. -/
def Obligations.ImeRises : Prop :=
  ∀ s t : State, step s = .next t → s.ime = false → t.ime = true →
    s.imePending = true ∨ readByte s.regs.pc s = .next 0xD9

/-- 10_state.md R28, 60_exceptions.md R346: `Halted` is entered by running `HALT` only, and a halted engine stays so
only while nothing is pending. -/
def Obligations.HaltedEntered : Prop :=
  ∀ s t : State, step s = .next t → t.runState = .halted →
    (s.runState = .halted ∧ flatByte 0xFF0F s &&& flatByte 0xFFFF s &&& 0x1F = 0)
      ∨ (runsInstruction s = true ∧ readByte s.regs.pc s = .next 0x76)

/-! ### The Router and the Bank Controller -/

/-- 20_memory.md R100 with R61 to R63, R80, R86, R87, R108: what a read of each window answers. -/
def Obligations.RouterRead : Prop :=
  ∀ (s : State) (a : Word), Readable s a = true →
    (a.toNat < 0x4000 → readByte a s = .next (loadCell .rom s.cart.rom.cells a.toNat))
    ∧ (0x4000 ≤ a.toNat → a.toNat < 0x8000 → s.cart.variant = .noBanking →
        readByte a s = .next (loadCell .rom s.cart.rom.cells a.toNat))
    ∧ (0x4000 ≤ a.toNat → a.toNat < 0x8000 → s.cart.variant = .bankSwitching →
        readByte a s = .next (loadCell .rom s.cart.rom.cells ((a.toNat - 0x4000) + effRomBank s.cart * 0x4000)))
    ∧ (0xA000 ≤ a.toNat → a.toNat < 0xC000 → s.cart.variant = .noBanking ∨ s.cart.ramEnable = false →
        readByte a s = .next 0x00)
    ∧ (0xA000 ≤ a.toNat → a.toNat < 0xC000 → s.cart.variant = .bankSwitching → s.cart.ramEnable = true →
        readByte a s = .next (loadCell .ram s.cart.ram.cells ((a.toNat - 0xA000) + effRamBank s.cart * 0x2000)))
    ∧ (a = 0xFF00 → ∃ keys : BitVec 4, readByte a s = .next (0b11#2 ++ s.joypSelect ++ keys))
    ∧ (a = 0xFF01 → readByte a s = .next s.serialByte)
    ∧ ((0x8000 ≤ a.toNat ∧ a.toNat < 0xA000) ∨ (0xC000 ≤ a.toNat ∧ a.toNat < 0xFF00) ∨ 0xFF02 ≤ a.toNat →
        readByte a s = .next (flatByte a s))

/-- 20_memory.md R90, R100, R113: a read answers a byte exactly where it stays inside its buffer, and otherwise faults
with the index; no read is refused, and a read changes nothing of the block (`joypQueries` is the model's own, log 3). -/
def Obligations.ReadAnswers : Prop :=
  ∀ (s : State) (a : Word),
    (Readable s a = true → ∃ v, readByte a s = .next v ∧ busRead a s = .next (v, afterRead a s))
    ∧ (Readable s a = false → ∃ k, readByte a s = .fault (.bankIndexOutOfRange k) ∧ busRead a s = .fault (.bankIndexOutOfRange k))
    ∧ ∃ q, afterRead a s = { s with joypQueries := q }

/-- 20_memory.md R101, R104, R109, R111, R113, R130: a write completes exactly where it stays inside its buffer, with
the effect of its window and no other, and otherwise faults. -/
def Obligations.RouterWrite : Prop :=
  ∀ (s : State) (a : Word) (v : Byte), StateOk s = true →
    (Writable s a = true → ∃ u, busWrite a v s = .next u ∧ StoreEffect s u a v)
    ∧ (Writable s a = false → ∃ k, busWrite a v s = .fault (.bankIndexOutOfRange k))

/-- 20_memory.md R81: the RAM-enable write of the Bank-Switching variant, and its round trip: enable, disable, enable
leaves what the first enable left. -/
def Obligations.RamEnableWrite : Prop :=
  ∀ (s : State) (a : Word) (v : Byte), s.cart.variant = .bankSwitching → a.toNat < 0x2000 →
    (v.extractLsb' 0 4 = 0xA → busWrite a v s = .next { s with cart := { s.cart with ramEnable := true } })
    ∧ (v.extractLsb' 0 4 = 0x0 → busWrite a v s = .next { s with cart := { s.cart with ramEnable := false } })
    ∧ (v.extractLsb' 0 4 ≠ 0xA → v.extractLsb' 0 4 ≠ 0x0 → busWrite a v s = .next s)
    ∧ ∀ s1 s2 s3, busWrite a 0x0A s = .next s1 → busWrite a 0x00 s1 = .next s2 → busWrite a 0x0A s2 = .next s3 → s3 = s1

/-- 20_memory.md R82, R83, R84: the other control writes of the Bank-Switching variant, register by register. -/
def Obligations.BankControlWrites : Prop :=
  ∀ (s : State) (a : Word) (v : Byte), s.cart.variant = .bankSwitching → 0x2000 ≤ a.toNat → a.toNat < 0x8000 →
    ∃ c : Cartridge, busWrite a v s = .next { s with cart := c }
      ∧ c = { s.cart with romBank := c.romBank, ramBank := c.ramBank, bankMode := c.bankMode }
      ∧ (a.toNat < 0x4000 →
          c.romBank = (if s.cart.romBank &&& 0xE0 ||| v &&& 0x1F = 0 then 1 else s.cart.romBank &&& 0xE0 ||| v &&& 0x1F)
            ∧ c.ramBank = s.cart.ramBank ∧ c.bankMode = s.cart.bankMode)
      ∧ (0x4000 ≤ a.toNat → a.toNat < 0x6000 → s.cart.bankMode = .romBanking →
          c.romBank = (if s.cart.romBank &&& 0x1F ||| v &&& 0xE0 = 0 then 1 else s.cart.romBank &&& 0x1F ||| v &&& 0xE0)
            ∧ c.ramBank = s.cart.ramBank ∧ c.bankMode = s.cart.bankMode)
      ∧ (0x4000 ≤ a.toNat → a.toNat < 0x6000 → s.cart.bankMode = .ramBanking →
          c.ramBank = v.extractLsb' 0 2 ∧ c.romBank = s.cart.romBank ∧ c.bankMode = s.cart.bankMode)
      ∧ (0x6000 ≤ a.toNat → v.getLsbD 0 = true →
          c.bankMode = .ramBanking ∧ c.ramBank = s.cart.ramBank
            ∧ c.romBank = (if s.cart.romBank &&& 0x1F = 0 then 1 else s.cart.romBank &&& 0x1F))
      ∧ (0x6000 ≤ a.toNat → v.getLsbD 0 = false →
          c.bankMode = .romBanking ∧ c.ramBank = 0 ∧ c.romBank = s.cart.romBank)

/-- 20_memory.md R62 to R65: on a No-Banking cartridge control writes and RAM writes change nothing, the RAM window
reads `0x00`, and the switchable ROM window is an identity read of the ROM buffer. -/
def Obligations.NoBankingCartridge : Prop :=
  ∀ (s : State) (a : Word) (v : Byte), s.cart.variant = .noBanking →
    (a.toNat < 0x8000 → busWrite a v s = .next s)
    ∧ (0xA000 ≤ a.toNat → a.toNat < 0xC000 → busWrite a v s = .next s ∧ readByte a s = .next 0x00)
    ∧ (0x4000 ≤ a.toNat → a.toNat < 0x8000 → readByte a s
        = if a.toNat < s.cart.rom.len then .next (loadCell .rom s.cart.rom.cells a.toNat) else .fault (.bankIndexOutOfRange a.toNat))

/-- 20_memory.md R85, 10_state.md R45: the effective banks are the registers reduced by the bank counts, with ROM bank 0
replaced by 1; under the launch premise the ROM bank is in range and never 0. -/
def Obligations.EffectiveBanks : Prop :=
  ∀ c : Cartridge, 2 ≤ c.romBankCount →
    1 ≤ effRomBank c ∧ effRomBank c < c.romBankCount
    ∧ (c.romBank.toNat % c.romBankCount ≠ 0 → effRomBank c = c.romBank.toNat % c.romBankCount)
    ∧ (c.romBank.toNat % c.romBankCount = 0 → effRomBank c = 1)
    ∧ (c.ramBankCount ≠ 0 → effRamBank c = c.ramBank.toNat % c.ramBankCount ∧ effRamBank c < c.ramBankCount)

/-- 20_memory.md R88, the document's scenario: on a Bank-Switching cartridge with at least two RAM banks, select
RAM-banking mode, select RAM bank 1, enable RAM, write `0x42` to `0xA010`: it reads back; in RAM bank 0 the old byte
reads. -/
def Obligations.RamBankScenario : Prop :=
  ∀ s : State, StateOk s = true → s.cart.variant = .bankSwitching → 2 ≤ s.cart.ramBankCount →
    ∃ s1 s2 s3 s4 s5, busWrite 0x6000 0x01 s = .next s1 ∧ busWrite 0x4000 0x01 s1 = .next s2 ∧ busWrite 0x0000 0x0A s2 = .next s3
      ∧ busWrite 0xA010 0x42 s3 = .next s4 ∧ readByte 0xA010 s4 = .next 0x42
      ∧ busWrite 0x4000 0x00 s4 = .next s5
      ∧ readByte 0xA010 s5 = .next (loadCell .ram s.cart.ram.cells 0x10) ∧ s4.dirty = true

/-! ### Load, reset and the host's functions -/

/-- 20_memory.md R72: for every header type byte in the table `load` selects its variant (and no other, with a save or
without one), where the size bytes and the length meet R71; for every byte absent it fails with
`UnsupportedCartridgeType` of that byte, whatever the tables. -/
def Obligations.LoadSelectsVariant : Prop :=
  ∀ (p : Params) (raw : Buffer) (save : Option Buffer),
    p.typeOff < raw.len → p.romszOff < raw.len → p.ramszOff < raw.len →
    (p.typeTable (loadCell .rom raw.cells p.typeOff) = none →
      load p raw save = .fault (.unsupportedCartridgeType (loadCell .rom raw.cells p.typeOff)))
    ∧ (∀ v c, p.typeTable (loadCell .rom raw.cells p.typeOff) = some v → load p raw save = .next c → c.variant = v)
    ∧ ∀ v romBanks ramBanks, p.typeTable (loadCell .rom raw.cells p.typeOff) = some v →
        p.romBankTable (loadCell .rom raw.cells p.romszOff) = some romBanks →
        p.ramBankTable (loadCell .rom raw.cells p.ramszOff) = some ramBanks →
        raw.len = romBanks * 0x4000 → 0x8000 ≤ raw.len → ∃ c, load p raw none = .next c ∧ c.variant = v

/-- 20_memory.md R71, R73 to R75, 10_state.md R38 to R43: with the default tables, an image whose three header bytes are
in the tables and whose length fits is loaded, with the bank registers at their reset values. -/
def Obligations.LoadBuildsCartridge : Prop :=
  ∀ (raw : Buffer) (v : Variant) (romBanks ramBanks : Nat),
    Machine.typeTable (loadCell .rom raw.cells 0x0147) = some v →
    Machine.romBankTable (loadCell .rom raw.cells 0x0148) = some romBanks →
    Machine.ramBankTable (loadCell .rom raw.cells 0x0149) = some ramBanks →
    raw.len = romBanks * 0x4000 →
      ∃ c, load Params.spec raw none = .next c ∧ c.variant = v ∧ c.romBankCount = romBanks ∧ c.ramBankCount = ramBanks
        ∧ c.rom = raw ∧ c.romBank = 1 ∧ c.ramBank = 0 ∧ c.ramEnable = false ∧ c.bankMode = .romBanking
        ∧ (v = .noBanking → c.ram.len = 0)
        ∧ (v = .bankSwitching → c.ram.len = ramBanks * 0x2000 ∧ ∀ k, loadCell .ram c.ram.cells k = 0x00)

/-- 70_reset_and_hazards.md R360 to R362: the values after power-on, for any loaded cartridge; the counters and the
model's own fields are left out (log 2, 3, 4). -/
def Obligations.PowerOnValues : Prop :=
  ∀ c : Cartridge,
    (powerOn Params.spec c).regs
        = { a := 0x01, f := 0xB0, b := 0x00, c := 0x13, d := 0x00, e := 0xD8, h := 0x01, l := 0x4D, sp := 0xFFFE, pc := 0x0100 }
    ∧ (powerOn Params.spec c).ime = false ∧ (powerOn Params.spec c).imePending = false
    ∧ (powerOn Params.spec c).runState = .running ∧ (powerOn Params.spec c).dirty = false
    ∧ (powerOn Params.spec c).joypSelect = 0 ∧ (powerOn Params.spec c).serialByte = 0 ∧ (powerOn Params.spec c).cart = c
    ∧ ∀ a : Word,
        (a.toNat < 0x8000 → flatByte a (powerOn Params.spec c) = readBootWindow c a.toNat)
        ∧ (0x8000 ≤ a.toNat → a.toNat < 0xFF00 → flatByte a (powerOn Params.spec c) = 0x00)
        ∧ (0xFF02 ≤ a.toNat → flatByte a (powerOn Params.spec c) = Machine.ioDefaults a.toNat)

/-- 70_reset_and_hazards.md R392, 60_exceptions.md R314, 20_memory.md R66, R89: a flush hands over the exported RAM
exactly when `dirty` is set, clears `dirty` on success only, and changes nothing else; the export is the whole RAM
buffer in order, and empty for No-Banking. -/
def Obligations.PersistenceFlush : Prop :=
  ∀ (p : Params) (s : State),
    (s.dirty = true → flushExport s = some (exportRam s.cart) ∧ act p (.flush .ok) s = .next { s with dirty := false }
      ∧ act p (.flush .ioError) s = .next s ∧ flushFault .ioError s = some .ioError)
    ∧ (s.dirty = false → ∀ r, flushExport s = none ∧ act p (.flush r) s = .next s ∧ flushFault r s = none)
    ∧ (s.cart.variant = .bankSwitching →
        (exportRam s.cart).length = s.cart.ram.len
          ∧ ∀ k, k < s.cart.ram.len → (exportRam s.cart)[k]? = some (loadCell .ram s.cart.ram.cells k))
    ∧ (s.cart.variant = .noBanking → exportRam s.cart = [])

/-- 60_exceptions.md R322: the environment sets request bits and nothing else, and what it sets becomes pending where
`IE` allows it. -/
def Obligations.EnvironmentRequest : Prop :=
  ∀ (p : Params) (m : BitVec 5) (s : State), StateOk s = true →
    ∃ t, act p (.request m) s = .next t ∧ t = { s with flat := t.flat }
      ∧ flatByte 0xFF0F t = flatByte 0xFF0F s ||| m.setWidth 8 ∧ ∀ a, a ≠ 0xFF0F → flatByte a t = flatByte a s

/-- 70_reset_and_hazards.md R390, R391: the default budget is 69905 cycles, 139810 at double speed; a frame that ends
meets its budget and overshoots by at most 23 cycles. That a frame starts its count at 0 and drops the overshoot, and
the bound of the recursion, are log 16. -/
def Obligations.FrameBudget : Prop :=
  frameBudget Params.spec = 69905 ∧ frameBudget { Params.spec with speedMultiplier := 1 } = 139810
    ∧ ∀ (p : Params) (s t : State) (n : Nat), runFrame p s = .next (n, t) → frameBudget p ≤ n ∧ n ≤ frameBudget p + 23

/-! ### 8-bit loads -/

/-- 10_state.md R21, 30_encoding.md R144: writing a register changes that register and no other, neither `F`, `SP` nor
`PC`; the pair views have the first-named register in bits 15 to 8. -/
def Obligations.RegisterFile : Prop :=
  ∀ (g : Regs) (r : Reg8) (v : Byte) (w : Word),
    (g.set8 r v).get8 r = v ∧ (∀ x, x ≠ r → (g.set8 r v).get8 x = g.get8 x) ∧ (g.set8 r v).f = g.f
    ∧ (g.set8 r v).sp = g.sp ∧ (g.set8 r v).pc = g.pc
    ∧ g.bc = g.b ++ g.c ∧ g.de = g.d ++ g.e ∧ g.hl = g.h ++ g.l ∧ g.af = g.a ++ g.f
    ∧ (g.setBc w).bc = w ∧ (g.setDe w).de = w ∧ (g.setHl w).hl = w ∧ (g.setAf w).af = w &&& 0xFFF0

/-- 40_load8.md R171, R172, R173: the loads into a register; `LD r,(HL)` reads at the old `HL`. -/
def Obligations.LoadRegister : Prop :=
  (∀ dst r : Reg8, Decodes [0x40#8 ||| (dst.code <<< 3) ||| r.code] (.ldRR dst r))
    ∧ (∀ (r : Reg8) (n : Byte), Decodes [0x06#8 ||| (r.code <<< 3), n] (.ldRN r n))
    ∧ (∀ r : Reg8, Decodes [0x46#8 ||| (r.code <<< 3)] (.ldRHl r))
    ∧ ∀ (s : State) (dst r : Reg8) (n : Byte),
      exec (.ldRR dst r) s = .next { s with regs := s.regs.set8 dst (s.regs.get8 r), cycles := 4 }
      ∧ exec (.ldRN r n) s = .next { s with regs := s.regs.set8 r n, cycles := 8 }
      ∧ LoadsByte (.ldRHl r) (s.regs.h ++ s.regs.l) s 8 fun v => s.regs.set8 r v

/-- 40_load8.md R176, R177, R180, R182, R184, R187, R189: the loads of `A` from memory; two of them step `HL` by 1
modulo `0x10000`; the high page is readable from every state. -/
def Obligations.LoadAccumulator : Prop :=
  (Decodes [0x0A] .ldABc ∧ Decodes [0x1A] .ldADe ∧ Decodes [0xF2] .ldAC ∧ (∀ n, Decodes [0xF0, n] (.ldhAN n))
    ∧ (∀ lo hi, Decodes [0xFA, lo, hi] (.ldANn (hi ++ lo))) ∧ Decodes [0x2A] .ldAHli ∧ Decodes [0x3A] .ldAHld)
    ∧ ∀ (s : State) (nn : Word) (n : Byte),
      (Readable s (0xFF00 + n.setWidth 16) = true ∧ Readable s (0xFF00 + s.regs.c.setWidth 16) = true)
      ∧ LoadsByte .ldABc (s.regs.b ++ s.regs.c) s 8 (fun v => { s.regs with a := v })
      ∧ LoadsByte .ldADe (s.regs.d ++ s.regs.e) s 8 (fun v => { s.regs with a := v })
      ∧ LoadsByte (.ldANn nn) nn s 16 (fun v => { s.regs with a := v })
      ∧ LoadsByte (.ldhAN n) (0xFF00 + n.setWidth 16) s 12 (fun v => { s.regs with a := v })
      ∧ LoadsByte .ldAC (0xFF00 + s.regs.c.setWidth 16) s 8 (fun v => { s.regs with a := v })
      ∧ LoadsByte .ldAHli (s.regs.h ++ s.regs.l) s 8 (fun v =>
        { s.regs with a := v, h := ((s.regs.h ++ s.regs.l : Word) + 1).extractLsb' 8 8
                      l := ((s.regs.h ++ s.regs.l : Word) + 1).extractLsb' 0 8 })
      ∧ LoadsByte .ldAHld (s.regs.h ++ s.regs.l) s 8 (fun v =>
        { s.regs with a := v, h := ((s.regs.h ++ s.regs.l : Word) - 1).extractLsb' 8 8
                      l := ((s.regs.h ++ s.regs.l : Word) - 1).extractLsb' 0 8 })

/-- 40_load8.md R174, R175, R178, R179, R181, R183, R185, R186, R188: the 8-bit stores, each with the address it stores
to; two of them step `HL` by 1 modulo `0x10000`; the high page is writable from every state. -/
def Obligations.StoreByte : Prop :=
  ((∀ r : Reg8, Decodes [0x70 ||| r.code] (.ldHlR r)) ∧ (∀ n, Decodes [0x36, n] (.ldHlN n)) ∧ Decodes [0x02] .ldBcA
    ∧ Decodes [0x12] .ldDeA ∧ Decodes [0xE2] .ldCA ∧ (∀ n, Decodes [0xE0, n] (.ldhNA n))
    ∧ (∀ lo hi, Decodes [0xEA, lo, hi] (.ldNnA (hi ++ lo))) ∧ Decodes [0x22] .ldHliA ∧ Decodes [0x32] .ldHldA)
    ∧ ∀ (s : State) (r : Reg8) (nn : Word) (n : Byte),
      (Writable s (0xFF00 + n.setWidth 16) = true ∧ Writable s (0xFF00 + s.regs.c.setWidth 16) = true)
      ∧ StoresByte (.ldHlR r) (s.regs.h ++ s.regs.l) (s.regs.get8 r) s 8 s.regs
      ∧ StoresByte (.ldHlN n) (s.regs.h ++ s.regs.l) n s 12 s.regs
      ∧ StoresByte .ldBcA (s.regs.b ++ s.regs.c) s.regs.a s 8 s.regs
      ∧ StoresByte .ldDeA (s.regs.d ++ s.regs.e) s.regs.a s 8 s.regs
      ∧ StoresByte (.ldNnA nn) nn s.regs.a s 16 s.regs
      ∧ StoresByte (.ldhNA n) (0xFF00 + n.setWidth 16) s.regs.a s 12 s.regs
      ∧ StoresByte .ldCA (0xFF00 + s.regs.c.setWidth 16) s.regs.a s 8 s.regs
      ∧ StoresByte .ldHliA (s.regs.h ++ s.regs.l) s.regs.a s 8
        { s.regs with h := ((s.regs.h ++ s.regs.l : Word) + 1).extractLsb' 8 8
                      l := ((s.regs.h ++ s.regs.l : Word) + 1).extractLsb' 0 8 }
      ∧ StoresByte .ldHldA (s.regs.h ++ s.regs.l) s.regs.a s 8
        { s.regs with h := ((s.regs.h ++ s.regs.l : Word) - 1).extractLsb' 8 8
                      l := ((s.regs.h ++ s.regs.l : Word) - 1).extractLsb' 0 8 }

/-! ### 16-bit loads and the stack -/

/-- 41_load16.md R200, R202: the 16-bit register loads. -/
def Obligations.LoadPair : Prop :=
  (∀ (p : RegPair) (lo hi : Byte), Decodes [0x01#8 ||| (p.code <<< 4), lo, hi] (.ldRrNn p (hi ++ lo)))
    ∧ Decodes [0xF9] .ldSpHl
    ∧ ∀ (s : State) (nn : Word),
      exec (.ldRrNn .bc nn) s
          = .next { s with regs := { s.regs with b := nn.extractLsb' 8 8, c := nn.extractLsb' 0 8 }, cycles := 12 }
      ∧ exec (.ldRrNn .de nn) s
          = .next { s with regs := { s.regs with d := nn.extractLsb' 8 8, e := nn.extractLsb' 0 8 }, cycles := 12 }
      ∧ exec (.ldRrNn .hl nn) s
          = .next { s with regs := { s.regs with h := nn.extractLsb' 8 8, l := nn.extractLsb' 0 8 }, cycles := 12 }
      ∧ exec (.ldRrNn .sp nn) s = .next { s with regs := { s.regs with sp := nn }, cycles := 12 }
      ∧ exec .ldSpHl s = .next { s with regs := { s.regs with sp := s.regs.h ++ s.regs.l }, cycles := 8 }

/-- 41_load16.md R201: `LD (nn),SP` stores the low byte at `nn`, then the high byte at `nn + 1`. -/
def Obligations.StoreStackPointer : Prop :=
  (∀ lo hi, Decodes [0x08, lo, hi] (.ldNnSp (hi ++ lo)))
    ∧ ∀ (s : State) (nn : Word),
      (StateOk s = true → Writable s nn = true → Writable s (nn + 1) = true →
        ∃ m u, StoreEffect s m nn (s.regs.sp.extractLsb' 0 8) ∧ StoreEffect m u (nn + 1) (s.regs.sp.extractLsb' 8 8)
          ∧ exec (.ldNnSp nn) s = .next { u with cycles := 20 })
      ∧ (Writable s nn = false ∨ Writable s (nn + 1) = false → StopsOnAccess (.ldNnSp nn) s)

/-- 41_load16.md R203, 43_alu16.md R243: `LD HL,SP+e` and `ADD SP,e`. -/
def Obligations.StackPointerPlusDisplacement : Prop :=
  (∀ e, Decodes [0xF8, e] (.ldHlSpE e)) ∧ (∀ e, Decodes [0xE8, e] (.addSpE e))
    ∧ ∀ (s : State) (e : Byte), ∃ f,
      FlagsAre f false false (decide (s.regs.sp.toNat % 16 + e.toNat % 16 > 0xF))
        (decide (s.regs.sp.toNat % 256 + e.toNat > 0xFF))
      ∧ exec (.ldHlSpE e) s = .next { s with
          regs := { s.regs with h := (s.regs.sp + e.signExtend 16).extractLsb' 8 8
                                l := (s.regs.sp + e.signExtend 16).extractLsb' 0 8, f := f }, cycles := 12 }
      ∧ exec (.addSpE e) s = .next { s with regs := { s.regs with sp := s.regs.sp + e.signExtend 16, f := f }, cycles := 16 }

/-- 41_load16.md R204: `PUSH`. -/
def Obligations.PushStoresPair : Prop :=
  (∀ p : StackPair, Decodes [0xC5#8 ||| (p.code <<< 4)] (.pushRr p))
    ∧ ∀ (s : State) (p : StackPair) (v : Word),
      v = (match p with
        | .bc => s.regs.b ++ s.regs.c
        | .de => s.regs.d ++ s.regs.e
        | .hl => s.regs.h ++ s.regs.l
        | .af => s.regs.a ++ s.regs.f) →
      (StateOk s = true → Pushable s = true →
        ∃ u, PushEffect s u v ∧ exec (.pushRr p) s = .next { u with regs := { s.regs with sp := s.regs.sp - 2 }, cycles := 16 })
      ∧ (Pushable s = false → StopsOnAccess (.pushRr p) s)

/-- 41_load16.md R205: `POP`; `POP AF` clears the low four bits of `F`. -/
def Obligations.PopLoadsPair : Prop :=
  (∀ p : StackPair, Decodes [0xC1#8 ||| (p.code <<< 4)] (.popRr p))
    ∧ ∀ s : State,
      (Poppable s = true → ∃ base hi lo, PopsBytes s base hi lo
        ∧ exec (.popRr .bc) s
            = .next { base with regs := { s.regs with b := hi, c := lo, sp := s.regs.sp + 2 }, cycles := 12 }
        ∧ exec (.popRr .de) s
            = .next { base with regs := { s.regs with d := hi, e := lo, sp := s.regs.sp + 2 }, cycles := 12 }
        ∧ exec (.popRr .hl) s
            = .next { base with regs := { s.regs with h := hi, l := lo, sp := s.regs.sp + 2 }, cycles := 12 }
        ∧ ∃ f, FlagsAre f (lo.getLsbD 7) (lo.getLsbD 6) (lo.getLsbD 5) (lo.getLsbD 4)
          ∧ exec (.popRr .af) s
              = .next { base with regs := { s.regs with a := hi, f := f, sp := s.regs.sp + 2 }, cycles := 12 })
      ∧ (Poppable s = false → ∀ p, StopsOnAccess (.popRr p) s)

/-! ### 8-bit arithmetic and logic -/

/-- 42_alu8.md R211, R212: `ADD` and `ADC`, their three forms. -/
def Obligations.AddAndAdc : Prop :=
  AccForms .addAR .addAHl .addAN 0 (fun i s base cost v =>
      SetsAF i s base cost (BitVec.ofNat 8 (s.regs.a.toNat + v.toNat))
        (decide ((s.regs.a.toNat + v.toNat) % 256 = 0)) false
        (decide (s.regs.a.toNat % 16 + v.toNat % 16 > 0xF)) (decide (s.regs.a.toNat + v.toNat > 0xFF)))
    ∧ AccForms .adcAR .adcAHl .adcAN 1 (fun i s base cost v =>
      SetsAF i s base cost (BitVec.ofNat 8 (s.regs.a.toNat + v.toNat + carryOf s))
        (decide ((s.regs.a.toNat + v.toNat + carryOf s) % 256 = 0)) false
        (decide (s.regs.a.toNat % 16 + v.toNat % 16 + carryOf s > 0xF))
        (decide (s.regs.a.toNat + v.toNat + carryOf s > 0xFF)))

/-- 42_alu8.md R213, R214, R218: `SUB`, `SBC` and `CP`, their three forms; `CP` leaves `A`. -/
def Obligations.Subtractions : Prop :=
  AccForms .subR .subHl .subN 2 (fun i s base cost v =>
      SetsAF i s base cost (BitVec.ofInt 8 (s.regs.a.toNat - v.toNat))
        (decide (((s.regs.a.toNat : Int) - v.toNat) % 256 = 0)) true
        (decide (s.regs.a.toNat % 16 < v.toNat % 16)) (decide (s.regs.a.toNat < v.toNat)))
    ∧ AccForms .sbcAR .sbcAHl .sbcAN 3 (fun i s base cost v =>
      SetsAF i s base cost (BitVec.ofInt 8 (s.regs.a.toNat - v.toNat - carryOf s))
        (decide (((s.regs.a.toNat : Int) - v.toNat - carryOf s) % 256 = 0)) true
        (decide (s.regs.a.toNat % 16 < v.toNat % 16 + carryOf s)) (decide (s.regs.a.toNat < v.toNat + carryOf s)))
    ∧ AccForms .cpR .cpHl .cpN 7 (fun i s base cost v =>
      SetsAF i s base cost s.regs.a (decide (s.regs.a = v)) true
        (decide (s.regs.a.toNat % 16 < v.toNat % 16)) (decide (s.regs.a.toNat < v.toNat)))

/-- 42_alu8.md R215, R216, R217: `AND`, `XOR` and `OR`, their three forms. -/
def Obligations.AndXorOr : Prop :=
  AccForms .andR .andHl .andN 4 (fun i s base cost v =>
      SetsAF i s base cost (s.regs.a &&& v) (decide (s.regs.a &&& v = 0)) false true false)
    ∧ AccForms .xorR .xorHl .xorN 5 (fun i s base cost v =>
      SetsAF i s base cost (s.regs.a ^^^ v) (decide (s.regs.a ^^^ v = 0)) false false false)
    ∧ AccForms .orR .orHl .orN 6 (fun i s base cost v =>
      SetsAF i s base cost (s.regs.a ||| v) (decide (s.regs.a ||| v = 0)) false false false)

/-- 42_alu8.md R219, R220: the 8-bit `INC` and `DEC`, register and memory forms; flag C unchanged. -/
def Obligations.IncAndDec : Prop :=
  (∀ r : Reg8, Decodes [0x04#8 ||| (r.code <<< 3)] (.incR r)) ∧ Decodes [0x34] .incHl
    ∧ (∀ r : Reg8, Decodes [0x05#8 ||| (r.code <<< 3)] (.decR r)) ∧ Decodes [0x35] .decHl
    ∧ ∀ s : State,
      (∀ r, SetsRegF (.incR r) r s 4 (s.regs.get8 r + 1) (decide (((s.regs.get8 r).toNat + 1) % 256 = 0)) false
          (decide ((s.regs.get8 r).toNat % 16 = 0xF)) (s.regs.f.getLsbD 4)
        ∧ SetsRegF (.decR r) r s 4 (s.regs.get8 r - 1) (decide (((s.regs.get8 r).toNat + 255) % 256 = 0)) true
          (decide ((s.regs.get8 r).toNat % 16 = 0)) (s.regs.f.getLsbD 4))
      ∧ (StateOk s = true → Readable s s.regs.hl = true → Writable s s.regs.hl = true →
          ∃ w, readByte s.regs.hl s = .next w
            ∧ SetsHlF .incHl s 12 (w + 1) (decide ((w.toNat + 1) % 256 = 0)) false (decide (w.toNat % 16 = 0xF))
                (s.regs.f.getLsbD 4)
            ∧ SetsHlF .decHl s 12 (w - 1) (decide ((w.toNat + 255) % 256 = 0)) true (decide (w.toNat % 16 = 0))
                (s.regs.f.getLsbD 4))
      ∧ ReadFaultStops .incHl s.regs.hl s ∧ ReadFaultStops .decHl s.regs.hl s

/-- 42_alu8.md R221: `DAA`, the two branches of its adjustment written out. -/
def Obligations.DecimalAdjust : Prop :=
  Decodes [0x27] .daa
    ∧ ∀ s : State,
      (s.regs.f.getLsbD 6 = false → ∀ adj : Nat,
        adj = (if s.regs.f.getLsbD 5 = true ∨ s.regs.a.toNat % 16 > 0x09 then 0x06 else 0)
            + (if s.regs.f.getLsbD 4 = true ∨ s.regs.a.toNat > 0x99 then 0x60 else 0) →
        SetsAF .daa s s 4 (BitVec.ofNat 8 (s.regs.a.toNat + adj)) (decide ((s.regs.a.toNat + adj) % 256 = 0)) false false
          (decide (s.regs.f.getLsbD 4 = true ∨ s.regs.a.toNat > 0x99)))
      ∧ (s.regs.f.getLsbD 6 = true → ∀ adj : Nat,
        adj = (if s.regs.f.getLsbD 5 = true then 0x06 else 0) + (if s.regs.f.getLsbD 4 = true then 0x60 else 0) →
        SetsAF .daa s s 4 (BitVec.ofInt 8 (s.regs.a.toNat - adj)) (decide (((s.regs.a.toNat : Int) - adj) % 256 = 0)) true
          false (s.regs.f.getLsbD 4))

/-- 42_alu8.md R222, R223, R224: `CPL`, `SCF`, `CCF`. -/
def Obligations.ComplementAndCarry : Prop :=
  Decodes [0x2F] .cpl ∧ Decodes [0x37] .scf ∧ Decodes [0x3F] .ccf
    ∧ ∀ s : State,
      SetsAF .cpl s s 4 (s.regs.a ^^^ 0xFF) (s.regs.f.getLsbD 7) true true (s.regs.f.getLsbD 4)
      ∧ SetsAF .scf s s 4 s.regs.a (s.regs.f.getLsbD 7) false false true
      ∧ SetsAF .ccf s s 4 s.regs.a (s.regs.f.getLsbD 7) false false (!s.regs.f.getLsbD 4)

/-! ### 16-bit arithmetic -/

/-- 43_alu16.md R240, R241, R242: `ADD HL,rr`; `INC rr` (`delta` is 1) and `DEC rr` (`delta` is -1), which change no flag. -/
def Obligations.PairArithmetic : Prop :=
  ((∀ p : RegPair, Decodes [0x09#8 ||| (p.code <<< 4)] (.addHlRr p))
     ∧ ∀ (s : State) (p : RegPair) (hl v : Word),
       hl = s.regs.h ++ s.regs.l →
       v = (match p with
         | .bc => s.regs.b ++ s.regs.c
         | .de => s.regs.d ++ s.regs.e
         | .hl => s.regs.h ++ s.regs.l
         | .sp => s.regs.sp) →
       ∃ f, FlagsAre f (s.regs.f.getLsbD 7) false (decide (hl.toNat % 0x1000 + v.toNat % 0x1000 > 0x0FFF))
           (decide (hl.toNat + v.toNat > 0xFFFF))
         ∧ exec (.addHlRr p) s = .next { s with
             regs := { s.regs with h := (hl + v).extractLsb' 8 8, l := (hl + v).extractLsb' 0 8, f := f }, cycles := 8 })
    ∧ (∀ p : RegPair, Decodes [0x03#8 ||| (p.code <<< 4)] (.incRr p)) ∧ (∀ p : RegPair, Decodes [0x0B#8 ||| (p.code <<< 4)] (.decRr p))
    ∧ ∀ (s : State) (delta : Word) (i : RegPair → Instr), (delta = 1 ∧ i = .incRr) ∨ (delta = -1 ∧ i = .decRr) →
      exec (i .bc) s = .next { s with
          regs := { s.regs with b := ((s.regs.b ++ s.regs.c : Word) + delta).extractLsb' 8 8
                                c := ((s.regs.b ++ s.regs.c : Word) + delta).extractLsb' 0 8 }, cycles := 8 }
      ∧ exec (i .de) s = .next { s with
          regs := { s.regs with d := ((s.regs.d ++ s.regs.e : Word) + delta).extractLsb' 8 8
                                e := ((s.regs.d ++ s.regs.e : Word) + delta).extractLsb' 0 8 }, cycles := 8 }
      ∧ exec (i .hl) s = .next { s with
          regs := { s.regs with h := ((s.regs.h ++ s.regs.l : Word) + delta).extractLsb' 8 8
                                l := ((s.regs.h ++ s.regs.l : Word) + delta).extractLsb' 0 8 }, cycles := 8 }
      ∧ exec (i .sp) s = .next { s with regs := { s.regs with sp := s.regs.sp + delta }, cycles := 8 }

/-! ### Rotates, shifts and bits -/

/-- 44_rotate_shift_bit.md R251 to R254: the accumulator rotates; Z is forced to 0. -/
def Obligations.AccumulatorRotates : Prop :=
  Decodes [0x07] .rlca ∧ Decodes [0x0F] .rrca ∧ Decodes [0x17] .rla ∧ Decodes [0x1F] .rra
    ∧ ∀ s : State,
      SetsAF .rlca s s 4 (s.regs.a.extractLsb' 0 7 ++ s.regs.a.extractLsb' 7 1) false false false (s.regs.a.getLsbD 7)
      ∧ SetsAF .rrca s s 4 (s.regs.a.extractLsb' 0 1 ++ s.regs.a.extractLsb' 1 7) false false false (s.regs.a.getLsbD 0)
      ∧ SetsAF .rla s s 4 (s.regs.a.extractLsb' 0 7 ++ s.regs.f.extractLsb' 4 1) false false false (s.regs.a.getLsbD 7)
      ∧ SetsAF .rra s s 4 (s.regs.f.extractLsb' 4 1 ++ s.regs.a.extractLsb' 1 7) false false false (s.regs.a.getLsbD 0)

/-- 44_rotate_shift_bit.md R255 to R258: `RLC`, `RRC`, `RL`, `RR`, both forms. -/
def Obligations.Rotates : Prop :=
  RotForms .rlcR .rlcHl 0 (fun w _ => w.extractLsb' 0 7 ++ w.extractLsb' 7 1) (fun w => w.getLsbD 7)
    ∧ RotForms .rrcR .rrcHl 1 (fun w _ => w.extractLsb' 0 1 ++ w.extractLsb' 1 7) (fun w => w.getLsbD 0)
    ∧ RotForms .rlR .rlHl 2 (fun w c => w.extractLsb' 0 7 ++ BitVec.ofBool c) (fun w => w.getLsbD 7)
    ∧ RotForms .rrR .rrHl 3 (fun w c => BitVec.ofBool c ++ w.extractLsb' 1 7) (fun w => w.getLsbD 0)

/-- 44_rotate_shift_bit.md R259 to R262: `SLA`, `SRA`, `SWAP`, `SRL`, both forms. -/
def Obligations.Shifts : Prop :=
  RotForms .slaR .slaHl 4 (fun w _ => w.extractLsb' 0 7 ++ 0#1) (fun w => w.getLsbD 7)
    ∧ RotForms .sraR .sraHl 5 (fun w _ => w.extractLsb' 7 1 ++ w.extractLsb' 1 7) (fun w => w.getLsbD 0)
    ∧ RotForms .swapR .swapHl 6 (fun w _ => w.extractLsb' 0 4 ++ w.extractLsb' 4 4) (fun _ => false)
    ∧ RotForms .srlR .srlHl 7 (fun w _ => 0#1 ++ w.extractLsb' 1 7) (fun w => w.getLsbD 0)

/-- 44_rotate_shift_bit.md R263: `BIT`, both forms: flags only, C unchanged, no write. -/
def Obligations.BitTest : Prop :=
  (∀ (b : BitVec 3) (r : Reg8), Decodes [0xCB, 0x40#8 ||| (b.setWidth 8 <<< 3) ||| r.code] (.bitBR b r))
    ∧ (∀ b : BitVec 3, Decodes [0xCB, 0x46#8 ||| (b.setWidth 8 <<< 3)] (.bitBHl b))
    ∧ ∀ (s : State) (b : BitVec 3),
      (∀ r, SetsAF (.bitBR b r) s s 8 s.regs.a (!(s.regs.get8 r).getLsbD b.toNat) false true (s.regs.f.getLsbD 4))
      ∧ (Readable s s.regs.hl = true → ∃ w, readByte s.regs.hl s = .next w
          ∧ SetsAF (.bitBHl b) s (afterRead s.regs.hl s) 12 s.regs.a (!w.getLsbD b.toNat) false true (s.regs.f.getLsbD 4))
      ∧ ReadFaultStops (.bitBHl b) s.regs.hl s

/-- 44_rotate_shift_bit.md R264, R265: `RES` and `SET`, both forms: no flag changes, and the write-back to `(HL)` is
unconditional. -/
def Obligations.ResetAndSetBit : Prop :=
  (∀ (b : BitVec 3) (r : Reg8), Decodes [0xCB, 0x80#8 ||| (b.setWidth 8 <<< 3) ||| r.code] (.resBR b r)
      ∧ Decodes [0xCB, 0xC0#8 ||| (b.setWidth 8 <<< 3) ||| r.code] (.setBR b r))
    ∧ (∀ b : BitVec 3, Decodes [0xCB, 0x86#8 ||| (b.setWidth 8 <<< 3)] (.resBHl b)
      ∧ Decodes [0xCB, 0xC6#8 ||| (b.setWidth 8 <<< 3)] (.setBHl b))
    ∧ ∀ (s : State) (b : BitVec 3),
      (∀ r, exec (.resBR b r) s
            = .next { s with regs := s.regs.set8 r (s.regs.get8 r &&& ~~~(1#8 <<< b.toNat)), cycles := 8 }
        ∧ exec (.setBR b r) s = .next { s with regs := s.regs.set8 r (s.regs.get8 r ||| 1#8 <<< b.toNat), cycles := 8 })
      ∧ (StateOk s = true → Readable s s.regs.hl = true → Writable s s.regs.hl = true →
          ∃ w, readByte s.regs.hl s = .next w
            ∧ (∃ u, StoreEffect (afterRead s.regs.hl s) u s.regs.hl (w &&& ~~~(1#8 <<< b.toNat))
                ∧ exec (.resBHl b) s = .next { u with cycles := 16 })
            ∧ ∃ u, StoreEffect (afterRead s.regs.hl s) u s.regs.hl (w ||| 1#8 <<< b.toNat)
                ∧ exec (.setBHl b) s = .next { u with cycles := 16 })
      ∧ ReadFaultStops (.resBHl b) s.regs.hl s ∧ ReadFaultStops (.setBHl b) s.regs.hl s

/-! ### Control transfer -/

/-- 45_control_flow.md R281 to R285: the jumps, unconditional and conditional, taken and not taken; `PC` in `s` is past
the instruction. -/
def Obligations.Jumps : Prop :=
  ((∀ lo hi, Decodes [0xC3, lo, hi] (.jpNn (hi ++ lo))) ∧ Decodes [0xE9] .jpHl ∧ (∀ e, Decodes [0x18, e] (.jrE e))
    ∧ (∀ (cc : Cond) (lo hi : Byte), Decodes [0xC2#8 ||| (cc.code <<< 3), lo, hi] (.jpCcNn cc (hi ++ lo)))
    ∧ ∀ (cc : Cond) (e : Byte), Decodes [0x20#8 ||| (cc.code <<< 3), e] (.jrCcE cc e))
    ∧ ∀ (s : State) (cc : Cond) (nn : Word) (e : Byte),
      exec (.jpNn nn) s = .next { s with regs := { s.regs with pc := nn }, cycles := 16 }
      ∧ exec .jpHl s = .next { s with regs := { s.regs with pc := s.regs.h ++ s.regs.l }, cycles := 4 }
      ∧ exec (.jrE e) s = .next { s with regs := { s.regs with pc := s.regs.pc + e.signExtend 16 }, cycles := 12 }
      ∧ (CondTrue cc s.regs.f →
        exec (.jpCcNn cc nn) s = .next { s with regs := { s.regs with pc := nn }, cycles := 16 }
        ∧ exec (.jrCcE cc e) s = .next { s with regs := { s.regs with pc := s.regs.pc + e.signExtend 16 }, cycles := 12 })
      ∧ (¬CondTrue cc s.regs.f →
        exec (.jpCcNn cc nn) s = .next { s with cycles := 12 } ∧ exec (.jrCcE cc e) s = .next { s with cycles := 8 })

/-- 45_control_flow.md R286, R287, R291: `CALL`, `CALL cc`, `RST`: `PC`, already past the instruction, is pushed. -/
def Obligations.Calls : Prop :=
  (∀ lo hi, Decodes [0xCD, lo, hi] (.callNn (hi ++ lo)))
    ∧ (∀ (cc : Cond) (lo hi : Byte), Decodes [0xC4#8 ||| (cc.code <<< 3), lo, hi] (.callCcNn cc (hi ++ lo)))
    ∧ (∀ y : BitVec 3, Decodes [0xC7#8 ||| (y.setWidth 8 <<< 3)] (.rstT (y.setWidth 8 <<< 3)))
    ∧ ∀ (s : State) (cc : Cond) (nn : Word) (t : Byte),
      (StateOk s = true → Pushable s = true → ∃ u, PushEffect s u s.regs.pc
        ∧ exec (.callNn nn) s = .next { u with regs := { s.regs with sp := s.regs.sp - 2, pc := nn }, cycles := 24 }
        ∧ (CondTrue cc s.regs.f →
            exec (.callCcNn cc nn) s = .next { u with regs := { s.regs with sp := s.regs.sp - 2, pc := nn }, cycles := 24 })
        ∧ exec (.rstT t) s
            = .next { u with regs := { s.regs with sp := s.regs.sp - 2, pc := t.setWidth 16 }, cycles := 16 })
      ∧ (¬CondTrue cc s.regs.f → exec (.callCcNn cc nn) s = .next { s with cycles := 12 })
      ∧ (Pushable s = false → StopsOnAccess (.callNn nn) s ∧ (CondTrue cc s.regs.f → StopsOnAccess (.callCcNn cc nn) s)
          ∧ StopsOnAccess (.rstT t) s)

/-- 45_control_flow.md R288, R289: `RET` and `RET cc`. -/
def Obligations.Returns : Prop :=
  Decodes [0xC9] .ret ∧ (∀ cc : Cond, Decodes [0xC0#8 ||| (cc.code <<< 3)] (.retCc cc))
    ∧ ∀ (s : State) (cc : Cond),
      (Poppable s = true → ∃ base hi lo, PopsBytes s base hi lo
        ∧ exec .ret s = .next { base with regs := { s.regs with sp := s.regs.sp + 2, pc := hi ++ lo }, cycles := 16 }
        ∧ (CondTrue cc s.regs.f →
            exec (.retCc cc) s = .next { base with regs := { s.regs with sp := s.regs.sp + 2, pc := hi ++ lo }, cycles := 20 }))
      ∧ (¬CondTrue cc s.regs.f → exec (.retCc cc) s = .next { s with cycles := 8 })
      ∧ (Poppable s = false → StopsOnAccess .ret s ∧ (CondTrue cc s.regs.f → StopsOnAccess (.retCc cc) s))

/-- 45_control_flow.md R290, 60_exceptions.md R334: `RETI` pops `PC` and sets `IME` at once; `ime_pending` and
everything else stay as they are. -/
def Obligations.ReturnFromInterrupt : Prop :=
  Decodes [0xD9] .reti
    ∧ ∀ s : State,
      (Poppable s = true → ∃ base hi lo, PopsBytes s base hi lo
        ∧ exec .reti s = .next { base with
            regs := { s.regs with sp := s.regs.sp + 2, pc := hi ++ lo }, ime := true, cycles := 16 })
      ∧ (Poppable s = false → StopsOnAccess .reti s)

/-- The inverse of taking an interrupt (60_exceptions.md R331, R334), for `SP` in `0xC002..0xFF00`: both pushed bytes lie
in work RAM or above it, below the I/O page. Other stacks (video RAM, high RAM with the reset `SP` of `0xFFFE`) are left
out. There `RETI` right after the entry gives back `PC` and `SP`, with `IME` set. -/
def Obligations.InterruptRoundTrip : Prop :=
  ∀ s t : State, StateOk s = true → s.ime = true →
    flatByte 0xFF0F s &&& flatByte 0xFFFF s &&& 0x1F ≠ 0 →
    0xC002 ≤ s.regs.sp.toNat → s.regs.sp.toNat ≤ 0xFF00 → step s = .next t →
      ∃ u, exec .reti t = .next u ∧ u.regs = s.regs ∧ u.ime = true ∧ u.cart = s.cart

/-! ### Processor control -/

/-- 46_cpu_control.md R300: `NOP` changes nothing. -/
def Obligations.NopChangesNothing : Prop :=
  Decodes [0x00] .nop ∧ ∀ s : State, exec .nop s = .next { s with cycles := 4 }

/-- 46_cpu_control.md R301 to R304: `HALT`, `STOP`, `DI`, `EI`, each with its whole effect. -/
def Obligations.ProcessorControl : Prop :=
  Decodes [0x76] .halt ∧ (∀ t, Decodes [0x10, t] (.stop t)) ∧ Decodes [0xF3] .di ∧ Decodes [0xFB] .ei
    ∧ ∀ (s : State) (t : Byte),
      exec .halt s = .next { s with runState := .halted, cycles := 4 }
      ∧ exec (.stop t) s = .next { s with cycles := 4 }
      ∧ exec .di s = .next { s with ime := false, imePending := false, cycles := 4 }
      ∧ exec .ei s = .next { s with imePending := true, cycles := 4 }

end
end

