-- ==== Sys2Proof/Laws/Memory.lean ====
section
/-! SUPPORT. The byte stores: every operation keeps the canonical form, a byte reads back as it was stored, and a store
leaves every other byte alone. -/

namespace Sys2Proof.Machine

/-- A store leaves every other address alone. -/
theorem loadCell_storeCell_other (sp : Space) (m : Memory) (a b : Nat) (v : Byte) (h : b ≠ a) :
    loadCell sp (storeCell sp m a v) b = loadCell sp m b := by
  have cons : ∀ rest, loadCell sp (consCell sp a v rest) b = loadCell sp rest b := by
    intro rest
    unfold consCell
    split
    · rfl
    · simp [loadCell, Ne.symm h]
  induction m with
  | nil => exact cons []
  | cons cell rest ih =>
    obtain ⟨k, w⟩ := cell
    unfold storeCell
    split
    · exact cons _
    · split
      · next hk => rw [cons]; simp [loadCell, ← hk, Ne.symm h]
      · simp only [loadCell, ih]

/-- Below its first address a canonical store reads as unlisted. -/
theorem loadCell_below (sp : Space) (m : Memory) (lo a : Nat) (hw : Memory.wfFrom sp lo m = true) (h : a < lo) :
    loadCell sp m a = unlisted sp a := by
  induction m generalizing lo with
  | nil => rfl
  | cons cell rest ih =>
    obtain ⟨k, w⟩ := cell
    simp only [Memory.wfFrom, Bool.and_eq_true, decide_eq_true_eq] at hw
    have hk : k ≠ a := by omega
    simp only [loadCell, hk, if_false]
    exact ih (k + 1) hw.2 (by omega)

/-- A byte reads back as it was stored, in a canonical store. -/
theorem loadCell_storeCell_same (sp : Space) (m : Memory) (lo a : Nat) (v : Byte)
    (hw : Memory.wfFrom sp lo m = true) : loadCell sp (storeCell sp m a v) a = v := by
  have cons : ∀ rest, Memory.wfFrom sp (a + 1) rest = true → loadCell sp (consCell sp a v rest) a = v := by
    intro rest hr
    unfold consCell
    split
    · next hv => rw [loadCell_below sp rest (a + 1) a hr (by omega), hv]
    · simp [loadCell]
  induction m generalizing lo with
  | nil => exact cons [] rfl
  | cons cell rest ih =>
    obtain ⟨k, w⟩ := cell
    have hc := hw
    simp only [Memory.wfFrom, Bool.and_eq_true, decide_eq_true_eq] at hw
    unfold storeCell
    split
    · next hk => exact cons _ (by simp only [Memory.wfFrom, Bool.and_eq_true, decide_eq_true_eq]; exact ⟨⟨hk, hw.1.2⟩, hw.2⟩)
    · split
      · next hk => subst hk; exact cons _ hw.2
      · next h1 h2 =>
        have hk : k ≠ a := fun e => h2 e.symm
        simp only [loadCell, hk, if_false]
        exact ih (k + 1) hw.2

/-- The canonical form from an address up is the canonical form from any lower one. -/
theorem wfFrom_mono (sp : Space) (m : Memory) (lo lo' : Nat) (h : lo' ≤ lo) (hw : Memory.wfFrom sp lo m = true) :
    Memory.wfFrom sp lo' m = true := by
  cases m with
  | nil => rfl
  | cons cell rest =>
    simp only [Memory.wfFrom, Bool.and_eq_true, decide_eq_true_eq] at hw ⊢
    exact ⟨⟨by omega, hw.1.2⟩, hw.2⟩

/-- A store keeps the canonical form. -/
theorem wfFrom_storeCell (sp : Space) (m : Memory) (lo a : Nat) (v : Byte) (h : lo ≤ a)
    (hw : Memory.wfFrom sp lo m = true) : Memory.wfFrom sp lo (storeCell sp m a v) = true := by
  have cons : ∀ rest lo, lo ≤ a → Memory.wfFrom sp (a + 1) rest = true →
      Memory.wfFrom sp lo (consCell sp a v rest) = true := by
    intro rest lo hl hr
    unfold consCell
    split
    · exact wfFrom_mono sp rest (a + 1) lo (by omega) hr
    · next hv => simp only [Memory.wfFrom, Bool.and_eq_true, decide_eq_true_eq]; exact ⟨⟨hl, hv⟩, hr⟩
  induction m generalizing lo with
  | nil => exact cons [] lo h rfl
  | cons cell rest ih =>
    obtain ⟨k, w⟩ := cell
    simp only [Memory.wfFrom, Bool.and_eq_true, decide_eq_true_eq] at hw
    unfold storeCell
    split
    · next hk =>
      exact cons _ lo h (by simp only [Memory.wfFrom, Bool.and_eq_true, decide_eq_true_eq]; exact ⟨⟨hk, hw.1.2⟩, hw.2⟩)
    · split
      · next hk => subst hk; exact cons _ lo h hw.2
      · next h1 h2 =>
        simp only [Memory.wfFrom, Bool.and_eq_true, decide_eq_true_eq]
        exact ⟨hw.1, ih (k + 1) (by omega) hw.2⟩

/-- A store keeps the canonical form. -/
theorem wf_storeCell (sp : Space) (m : Memory) (a : Nat) (v : Byte) (hw : Memory.wf sp m = true) :
    Memory.wf sp (storeCell sp m a v) = true := wfFrom_storeCell sp m 0 a v (Nat.zero_le a) hw

/-- A store below a bound keeps every listed address below it. -/
theorem below_storeCell (sp : Space) (m : Memory) (n a : Nat) (v : Byte) (ha : a < n) (hb : Memory.below n m = true) :
    Memory.below n (storeCell sp m a v) = true := by
  have cons : ∀ rest, Memory.below n rest = true → Memory.below n (consCell sp a v rest) = true := by
    intro rest hr
    unfold consCell
    split
    · exact hr
    · simp only [Memory.below, List.all_cons, Bool.and_eq_true, decide_eq_true_eq] at hr ⊢
      exact ⟨ha, hr⟩
  induction m with
  | nil => exact cons [] rfl
  | cons cell rest ih =>
    obtain ⟨k, w⟩ := cell
    have hb' := hb
    simp only [Memory.below, List.all_cons, Bool.and_eq_true, decide_eq_true_eq] at hb
    unfold storeCell
    split
    · exact cons _ hb'
    · split
      · exact cons _ hb.2
      · simp only [Memory.below, List.all_cons, Bool.and_eq_true, decide_eq_true_eq]
        exact ⟨hb.1, ih hb.2⟩

/-- Two canonical stores that read alike everywhere are the same data. -/
theorem eq_of_loadCell_eq (sp : Space) (m n : Memory) (lo : Nat) (hm : Memory.wfFrom sp lo m = true)
    (hn : Memory.wfFrom sp lo n = true) (h : ∀ a, loadCell sp m a = loadCell sp n a) : m = n := by
  induction m generalizing lo n with
  | nil =>
    cases n with
    | nil => rfl
    | cons cell rest =>
      obtain ⟨k, w⟩ := cell
      simp only [Memory.wfFrom, Bool.and_eq_true, decide_eq_true_eq] at hn
      have hk := h k
      simp only [loadCell, if_true] at hk
      exact absurd hk.symm hn.1.2
  | cons cell rest ih =>
    obtain ⟨k, w⟩ := cell
    have hm' := hm
    simp only [Memory.wfFrom, Bool.and_eq_true, decide_eq_true_eq] at hm
    cases n with
    | nil =>
      have hk := h k
      simp only [loadCell, if_true] at hk
      exact absurd hk hm.1.2
    | cons cell' rest' =>
      obtain ⟨k', w'⟩ := cell'
      have hn' := hn
      simp only [Memory.wfFrom, Bool.and_eq_true, decide_eq_true_eq] at hn
      have hkk : k = k' := by
        rcases Nat.lt_trichotomy k k' with hlt | heq | hgt
        · have hk := h k
          have : k' ≠ k := by omega
          simp only [loadCell, if_true, this, if_false] at hk
          rw [loadCell_below sp rest' (k' + 1) k hn.2 (by omega)] at hk
          exact absurd hk hm.1.2
        · exact heq
        · have hk := h k'
          have : k ≠ k' := by omega
          simp only [loadCell, if_true, this, if_false] at hk
          rw [loadCell_below sp rest (k + 1) k' hm.2 (by omega)] at hk
          exact absurd hk.symm hn.1.2
      subst hkk
      have hw : w = w' := by have := h k; simpa only [loadCell, if_true] using this
      subst hw
      have hrest : rest = rest' := by
        refine ih rest' (k + 1) hm.2 hn.2 fun a => ?_
        rcases Nat.lt_or_ge a (k + 1) with hlt | hge
        · rw [loadCell_below sp rest (k + 1) a hm.2 hlt, loadCell_below sp rest' (k + 1) a hn.2 hlt]
        · have := h a
          have hka : k ≠ a := by omega
          simpa only [loadCell, hka, if_false] using this
      rw [hrest]

/-- A buffer built from bytes is canonical, and its listed addresses are inside it. -/
theorem wfFrom_cellsOfBytes (sp : Space) (bytes : List Byte) (a : Nat) :
    Memory.wfFrom sp a (cellsOfBytes sp a bytes) = true := by
  induction bytes generalizing a with
  | nil => rfl
  | cons v rest ih =>
    unfold cellsOfBytes consCell
    split
    · exact wfFrom_mono sp _ (a + 1) a (by omega) (ih (a + 1))
    · next hv => simp only [Memory.wfFrom, Bool.and_eq_true, decide_eq_true_eq]; exact ⟨⟨Nat.le_refl a, hv⟩, ih (a + 1)⟩

/-- Putting a byte where the host fetches keeps the canonical form too (`pokeByte`). -/
theorem wf_pokeBuffer (sp : Space) (b : Buffer) (i : Nat) (v : Byte) (h : Memory.wf sp b.cells = true) :
    Memory.wf sp (pokeBuffer sp b i v).cells = true := by
  unfold pokeBuffer
  split
  · exact wf_storeCell sp b.cells i v h
  · exact h

/-- The memories of the reset state are canonical. -/
theorem reset_memories_wf :
    Memory.wf .flat State.reset.flat = true ∧ Memory.wf .rom State.reset.cart.rom.cells = true
      ∧ Memory.wf .ram State.reset.cart.ram.cells = true := ⟨rfl, rfl, rfl⟩

end Sys2Proof.Machine
end

