-- ==== Sys2Proof/Laws/State.lean ====
section
/-! SUPPORT. One lemma per field of the state and per update of it, so that no proof unfolds a record update. -/

namespace Sys2Proof.Machine

@[simp] theorem State.setPc_regs (v : Word) (s : State) : (s.setPc v).regs = { s.regs with pc := v } := rfl

@[simp] theorem State.setPc_ime (v : Word) (s : State) : (s.setPc v).ime = s.ime := rfl

@[simp] theorem State.setPc_imePending (v : Word) (s : State) : (s.setPc v).imePending = s.imePending := rfl

@[simp] theorem State.setPc_runState (v : Word) (s : State) : (s.setPc v).runState = s.runState := rfl

@[simp] theorem State.setPc_flat (v : Word) (s : State) : (s.setPc v).flat = s.flat := rfl

@[simp] theorem State.setPc_dirty (v : Word) (s : State) : (s.setPc v).dirty = s.dirty := rfl

@[simp] theorem State.setPc_joypSelect (v : Word) (s : State) : (s.setPc v).joypSelect = s.joypSelect := rfl

@[simp] theorem State.setPc_serialByte (v : Word) (s : State) : (s.setPc v).serialByte = s.serialByte := rfl

@[simp] theorem State.setPc_cart (v : Word) (s : State) : (s.setPc v).cart = s.cart := rfl

@[simp] theorem State.setPc_divCounter (v : Word) (s : State) : (s.setPc v).divCounter = s.divCounter := rfl

@[simp] theorem State.setPc_timerCounter (v : Word) (s : State) : (s.setPc v).timerCounter = s.timerCounter := rfl

@[simp] theorem State.setPc_cycles (v : Word) (s : State) : (s.setPc v).cycles = s.cycles := rfl

@[simp] theorem State.setPc_joypQueries (v : Word) (s : State) : (s.setPc v).joypQueries = s.joypQueries := rfl

@[simp] theorem State.setSp_regs (v : Word) (s : State) : (s.setSp v).regs = { s.regs with sp := v } := rfl

@[simp] theorem State.setSp_ime (v : Word) (s : State) : (s.setSp v).ime = s.ime := rfl

@[simp] theorem State.setSp_imePending (v : Word) (s : State) : (s.setSp v).imePending = s.imePending := rfl

@[simp] theorem State.setSp_runState (v : Word) (s : State) : (s.setSp v).runState = s.runState := rfl

@[simp] theorem State.setSp_flat (v : Word) (s : State) : (s.setSp v).flat = s.flat := rfl

@[simp] theorem State.setSp_dirty (v : Word) (s : State) : (s.setSp v).dirty = s.dirty := rfl

@[simp] theorem State.setSp_joypSelect (v : Word) (s : State) : (s.setSp v).joypSelect = s.joypSelect := rfl

@[simp] theorem State.setSp_serialByte (v : Word) (s : State) : (s.setSp v).serialByte = s.serialByte := rfl

@[simp] theorem State.setSp_cart (v : Word) (s : State) : (s.setSp v).cart = s.cart := rfl

@[simp] theorem State.setSp_divCounter (v : Word) (s : State) : (s.setSp v).divCounter = s.divCounter := rfl

@[simp] theorem State.setSp_timerCounter (v : Word) (s : State) : (s.setSp v).timerCounter = s.timerCounter := rfl

@[simp] theorem State.setSp_cycles (v : Word) (s : State) : (s.setSp v).cycles = s.cycles := rfl

@[simp] theorem State.setSp_joypQueries (v : Word) (s : State) : (s.setSp v).joypQueries = s.joypQueries := rfl

@[simp] theorem State.took_regs (n : Nat) (s : State) : (s.took n).regs = s.regs := rfl

@[simp] theorem State.took_ime (n : Nat) (s : State) : (s.took n).ime = s.ime := rfl

@[simp] theorem State.took_imePending (n : Nat) (s : State) : (s.took n).imePending = s.imePending := rfl

@[simp] theorem State.took_runState (n : Nat) (s : State) : (s.took n).runState = s.runState := rfl

@[simp] theorem State.took_flat (n : Nat) (s : State) : (s.took n).flat = s.flat := rfl

@[simp] theorem State.took_dirty (n : Nat) (s : State) : (s.took n).dirty = s.dirty := rfl

@[simp] theorem State.took_joypSelect (n : Nat) (s : State) : (s.took n).joypSelect = s.joypSelect := rfl

@[simp] theorem State.took_serialByte (n : Nat) (s : State) : (s.took n).serialByte = s.serialByte := rfl

@[simp] theorem State.took_cart (n : Nat) (s : State) : (s.took n).cart = s.cart := rfl

@[simp] theorem State.took_divCounter (n : Nat) (s : State) : (s.took n).divCounter = s.divCounter := rfl

@[simp] theorem State.took_timerCounter (n : Nat) (s : State) : (s.took n).timerCounter = s.timerCounter := rfl

@[simp] theorem State.took_cycles (n : Nat) (s : State) : (s.took n).cycles = n := rfl

@[simp] theorem State.took_joypQueries (n : Nat) (s : State) : (s.took n).joypQueries = s.joypQueries := rfl

@[simp] theorem State.mapRegs_regs (f : Regs → Regs) (s : State) : (s.mapRegs f).regs = f s.regs := rfl

@[simp] theorem State.mapRegs_ime (f : Regs → Regs) (s : State) : (s.mapRegs f).ime = s.ime := rfl

@[simp] theorem State.mapRegs_imePending (f : Regs → Regs) (s : State) : (s.mapRegs f).imePending = s.imePending := rfl

@[simp] theorem State.mapRegs_runState (f : Regs → Regs) (s : State) : (s.mapRegs f).runState = s.runState := rfl

@[simp] theorem State.mapRegs_flat (f : Regs → Regs) (s : State) : (s.mapRegs f).flat = s.flat := rfl

@[simp] theorem State.mapRegs_dirty (f : Regs → Regs) (s : State) : (s.mapRegs f).dirty = s.dirty := rfl

@[simp] theorem State.mapRegs_joypSelect (f : Regs → Regs) (s : State) : (s.mapRegs f).joypSelect = s.joypSelect := rfl

@[simp] theorem State.mapRegs_serialByte (f : Regs → Regs) (s : State) : (s.mapRegs f).serialByte = s.serialByte := rfl

@[simp] theorem State.mapRegs_cart (f : Regs → Regs) (s : State) : (s.mapRegs f).cart = s.cart := rfl

@[simp] theorem State.mapRegs_divCounter (f : Regs → Regs) (s : State) : (s.mapRegs f).divCounter = s.divCounter := rfl

@[simp] theorem State.mapRegs_timerCounter (f : Regs → Regs) (s : State) : (s.mapRegs f).timerCounter = s.timerCounter := rfl

@[simp] theorem State.mapRegs_cycles (f : Regs → Regs) (s : State) : (s.mapRegs f).cycles = s.cycles := rfl

@[simp] theorem State.mapRegs_joypQueries (f : Regs → Regs) (s : State) : (s.mapRegs f).joypQueries = s.joypQueries := rfl

@[simp] theorem setFlat_regs (a : Word) (v : Byte) (s : State) : (setFlat a v s).regs = s.regs := rfl

@[simp] theorem setFlat_ime (a : Word) (v : Byte) (s : State) : (setFlat a v s).ime = s.ime := rfl

@[simp] theorem setFlat_imePending (a : Word) (v : Byte) (s : State) : (setFlat a v s).imePending = s.imePending := rfl

@[simp] theorem setFlat_runState (a : Word) (v : Byte) (s : State) : (setFlat a v s).runState = s.runState := rfl

@[simp] theorem setFlat_flat (a : Word) (v : Byte) (s : State) : (setFlat a v s).flat = storeCell .flat s.flat a.toNat v := rfl

@[simp] theorem setFlat_dirty (a : Word) (v : Byte) (s : State) : (setFlat a v s).dirty = s.dirty := rfl

@[simp] theorem setFlat_joypSelect (a : Word) (v : Byte) (s : State) : (setFlat a v s).joypSelect = s.joypSelect := rfl

@[simp] theorem setFlat_serialByte (a : Word) (v : Byte) (s : State) : (setFlat a v s).serialByte = s.serialByte := rfl

@[simp] theorem setFlat_cart (a : Word) (v : Byte) (s : State) : (setFlat a v s).cart = s.cart := rfl

@[simp] theorem setFlat_divCounter (a : Word) (v : Byte) (s : State) : (setFlat a v s).divCounter = s.divCounter := rfl

@[simp] theorem setFlat_timerCounter (a : Word) (v : Byte) (s : State) : (setFlat a v s).timerCounter = s.timerCounter := rfl

@[simp] theorem setFlat_cycles (a : Word) (v : Byte) (s : State) : (setFlat a v s).cycles = s.cycles := rfl

@[simp] theorem setFlat_joypQueries (a : Word) (v : Byte) (s : State) : (setFlat a v s).joypQueries = s.joypQueries := rfl

@[simp] theorem wake_regs (s : State) : (wake s).regs = s.regs := rfl

@[simp] theorem wake_ime (s : State) : (wake s).ime = s.ime := rfl

@[simp] theorem wake_imePending (s : State) : (wake s).imePending = s.imePending := rfl

@[simp] theorem wake_runState (s : State) : (wake s).runState = .running := rfl

@[simp] theorem wake_flat (s : State) : (wake s).flat = s.flat := rfl

@[simp] theorem wake_dirty (s : State) : (wake s).dirty = s.dirty := rfl

@[simp] theorem wake_joypSelect (s : State) : (wake s).joypSelect = s.joypSelect := rfl

@[simp] theorem wake_serialByte (s : State) : (wake s).serialByte = s.serialByte := rfl

@[simp] theorem wake_cart (s : State) : (wake s).cart = s.cart := rfl

@[simp] theorem wake_divCounter (s : State) : (wake s).divCounter = s.divCounter := rfl

@[simp] theorem wake_timerCounter (s : State) : (wake s).timerCounter = s.timerCounter := rfl

@[simp] theorem wake_cycles (s : State) : (wake s).cycles = s.cycles := rfl

@[simp] theorem wake_joypQueries (s : State) : (wake s).joypQueries = s.joypQueries := rfl

/-- What a read leaves: only the model's own count of joypad answers can change. -/
theorem afterRead_eq (a : Word) (s : State) : ∃ q, afterRead a s = { s with joypQueries := q } := by
  unfold afterRead
  split
  · exact ⟨_, rfl⟩
  · exact ⟨s.joypQueries, rfl⟩

@[simp] theorem afterRead_regs (a : Word) (s : State) : (afterRead a s).regs = s.regs := by
  obtain ⟨q, h⟩ := afterRead_eq a s; rw [h]

@[simp] theorem afterRead_ime (a : Word) (s : State) : (afterRead a s).ime = s.ime := by
  obtain ⟨q, h⟩ := afterRead_eq a s; rw [h]

@[simp] theorem afterRead_imePending (a : Word) (s : State) : (afterRead a s).imePending = s.imePending := by
  obtain ⟨q, h⟩ := afterRead_eq a s; rw [h]

@[simp] theorem afterRead_runState (a : Word) (s : State) : (afterRead a s).runState = s.runState := by
  obtain ⟨q, h⟩ := afterRead_eq a s; rw [h]

@[simp] theorem afterRead_flat (a : Word) (s : State) : (afterRead a s).flat = s.flat := by
  obtain ⟨q, h⟩ := afterRead_eq a s; rw [h]

@[simp] theorem afterRead_dirty (a : Word) (s : State) : (afterRead a s).dirty = s.dirty := by
  obtain ⟨q, h⟩ := afterRead_eq a s; rw [h]

@[simp] theorem afterRead_joypSelect (a : Word) (s : State) : (afterRead a s).joypSelect = s.joypSelect := by
  obtain ⟨q, h⟩ := afterRead_eq a s; rw [h]

@[simp] theorem afterRead_serialByte (a : Word) (s : State) : (afterRead a s).serialByte = s.serialByte := by
  obtain ⟨q, h⟩ := afterRead_eq a s; rw [h]

@[simp] theorem afterRead_cart (a : Word) (s : State) : (afterRead a s).cart = s.cart := by
  obtain ⟨q, h⟩ := afterRead_eq a s; rw [h]

@[simp] theorem afterRead_divCounter (a : Word) (s : State) : (afterRead a s).divCounter = s.divCounter := by
  obtain ⟨q, h⟩ := afterRead_eq a s; rw [h]

@[simp] theorem afterRead_timerCounter (a : Word) (s : State) : (afterRead a s).timerCounter = s.timerCounter := by
  obtain ⟨q, h⟩ := afterRead_eq a s; rw [h]

@[simp] theorem afterRead_cycles (a : Word) (s : State) : (afterRead a s).cycles = s.cycles := by
  obtain ⟨q, h⟩ := afterRead_eq a s; rw [h]

@[simp] theorem Regs.setBc_a (v : Word) (g : Regs) : (g.setBc v).a = g.a := rfl

@[simp] theorem Regs.setBc_f (v : Word) (g : Regs) : (g.setBc v).f = g.f := rfl

@[simp] theorem Regs.setBc_b (v : Word) (g : Regs) : (g.setBc v).b = hiByte v := rfl

@[simp] theorem Regs.setBc_c (v : Word) (g : Regs) : (g.setBc v).c = loByte v := rfl

@[simp] theorem Regs.setBc_d (v : Word) (g : Regs) : (g.setBc v).d = g.d := rfl

@[simp] theorem Regs.setBc_e (v : Word) (g : Regs) : (g.setBc v).e = g.e := rfl

@[simp] theorem Regs.setBc_h (v : Word) (g : Regs) : (g.setBc v).h = g.h := rfl

@[simp] theorem Regs.setBc_l (v : Word) (g : Regs) : (g.setBc v).l = g.l := rfl

@[simp] theorem Regs.setBc_sp (v : Word) (g : Regs) : (g.setBc v).sp = g.sp := rfl

@[simp] theorem Regs.setBc_pc (v : Word) (g : Regs) : (g.setBc v).pc = g.pc := rfl

@[simp] theorem Regs.setDe_a (v : Word) (g : Regs) : (g.setDe v).a = g.a := rfl

@[simp] theorem Regs.setDe_f (v : Word) (g : Regs) : (g.setDe v).f = g.f := rfl

@[simp] theorem Regs.setDe_b (v : Word) (g : Regs) : (g.setDe v).b = g.b := rfl

@[simp] theorem Regs.setDe_c (v : Word) (g : Regs) : (g.setDe v).c = g.c := rfl

@[simp] theorem Regs.setDe_d (v : Word) (g : Regs) : (g.setDe v).d = hiByte v := rfl

@[simp] theorem Regs.setDe_e (v : Word) (g : Regs) : (g.setDe v).e = loByte v := rfl

@[simp] theorem Regs.setDe_h (v : Word) (g : Regs) : (g.setDe v).h = g.h := rfl

@[simp] theorem Regs.setDe_l (v : Word) (g : Regs) : (g.setDe v).l = g.l := rfl

@[simp] theorem Regs.setDe_sp (v : Word) (g : Regs) : (g.setDe v).sp = g.sp := rfl

@[simp] theorem Regs.setDe_pc (v : Word) (g : Regs) : (g.setDe v).pc = g.pc := rfl

@[simp] theorem Regs.setHl_a (v : Word) (g : Regs) : (g.setHl v).a = g.a := rfl

@[simp] theorem Regs.setHl_f (v : Word) (g : Regs) : (g.setHl v).f = g.f := rfl

@[simp] theorem Regs.setHl_b (v : Word) (g : Regs) : (g.setHl v).b = g.b := rfl

@[simp] theorem Regs.setHl_c (v : Word) (g : Regs) : (g.setHl v).c = g.c := rfl

@[simp] theorem Regs.setHl_d (v : Word) (g : Regs) : (g.setHl v).d = g.d := rfl

@[simp] theorem Regs.setHl_e (v : Word) (g : Regs) : (g.setHl v).e = g.e := rfl

@[simp] theorem Regs.setHl_h (v : Word) (g : Regs) : (g.setHl v).h = hiByte v := rfl

@[simp] theorem Regs.setHl_l (v : Word) (g : Regs) : (g.setHl v).l = loByte v := rfl

@[simp] theorem Regs.setHl_sp (v : Word) (g : Regs) : (g.setHl v).sp = g.sp := rfl

@[simp] theorem Regs.setHl_pc (v : Word) (g : Regs) : (g.setHl v).pc = g.pc := rfl

@[simp] theorem Regs.setAf_a (v : Word) (g : Regs) : (g.setAf v).a = hiByte v := rfl

@[simp] theorem Regs.setAf_f (v : Word) (g : Regs) : (g.setAf v).f = loByte v &&& 0xF0 := rfl

@[simp] theorem Regs.setAf_b (v : Word) (g : Regs) : (g.setAf v).b = g.b := rfl

@[simp] theorem Regs.setAf_c (v : Word) (g : Regs) : (g.setAf v).c = g.c := rfl

@[simp] theorem Regs.setAf_d (v : Word) (g : Regs) : (g.setAf v).d = g.d := rfl

@[simp] theorem Regs.setAf_e (v : Word) (g : Regs) : (g.setAf v).e = g.e := rfl

@[simp] theorem Regs.setAf_h (v : Word) (g : Regs) : (g.setAf v).h = g.h := rfl

@[simp] theorem Regs.setAf_l (v : Word) (g : Regs) : (g.setAf v).l = g.l := rfl

@[simp] theorem Regs.setAf_sp (v : Word) (g : Regs) : (g.setAf v).sp = g.sp := rfl

@[simp] theorem Regs.setAf_pc (v : Word) (g : Regs) : (g.setAf v).pc = g.pc := rfl

@[simp] theorem Regs.set8_f (r : Reg8) (v : Byte) (g : Regs) : (g.set8 r v).f = g.f := by cases r <;> rfl

@[simp] theorem Regs.set8_sp (r : Reg8) (v : Byte) (g : Regs) : (g.set8 r v).sp = g.sp := by cases r <;> rfl

@[simp] theorem Regs.set8_pc (r : Reg8) (v : Byte) (g : Regs) : (g.set8 r v).pc = g.pc := by cases r <;> rfl

/-- A register reads as it was written. -/
@[simp] theorem Regs.get8_set8_same (r : Reg8) (v : Byte) (g : Regs) : (g.set8 r v).get8 r = v := by cases r <;> rfl

/-- Writing a register leaves the others. -/
theorem Regs.get8_set8_other (r x : Reg8) (v : Byte) (g : Regs) (h : x ≠ r) : (g.set8 r v).get8 x = g.get8 x := by
  cases r <;> cases x <;> first | rfl | exact absurd rfl h

/-- The high byte of a word joined from two bytes. -/
@[simp] theorem hiByte_joinBytes (hi lo : Byte) : hiByte (joinBytes hi lo) = hi := by
  apply BitVec.eq_of_getLsbD_eq
  intro i h
  simp only [hiByte, joinBytes, BitVec.getLsbD_extractLsb', BitVec.getLsbD_append]
  simp [h]

/-- The low byte of a word joined from two bytes. -/
@[simp] theorem loByte_joinBytes (hi lo : Byte) : loByte (joinBytes hi lo) = lo := by
  apply BitVec.eq_of_getLsbD_eq
  intro i h
  simp only [loByte, joinBytes, BitVec.getLsbD_extractLsb', BitVec.getLsbD_append]
  simp [h]

/-- A word is the join of its two bytes. -/
@[simp] theorem joinBytes_hiByte_loByte (w : Word) : joinBytes (hiByte w) (loByte w) = w := by
  apply BitVec.eq_of_getLsbD_eq
  intro i h
  simp only [hiByte, loByte, joinBytes, BitVec.getLsbD_extractLsb', BitVec.getLsbD_append]
  by_cases h8 : i < 8
  · simp [h8]
  · have h1 : i - 8 < 8 := by omega
    have h2 : 8 + (i - 8) = i := by omega
    simp [h8, h1, h2]

end Sys2Proof.Machine
end

