-- ==== Sys2Proof/Laws/Router.lean ====
section
/-! SUPPORT. What a Router read, a Router write, a push and a pop can do, said once for the proofs to cite. -/

namespace Sys2Proof.Machine

@[simp] theorem chain_next {α β : Type} (x : α) (f : α → Result β) : chain (.next x) f = f x := rfl

@[simp] theorem chain_fault {α β : Type} (e : Fault) (f : α → Result β) : chain (.fault e) f = .fault e := rfl

@[simp] theorem chain_refused {α β : Type} (e : Refusal) (f : α → Result β) : chain (.refused e) f = .refused e := rfl

/-- A sequence completes when both of its parts do. -/
theorem chain_eq_next {α β : Type} {r : Result α} {f : α → Result β} {y : β} :
    chain r f = .next y ↔ ∃ x, r = .next x ∧ f x = .next y := by
  cases r <;> simp [chain]

/-- A sequence faults when its first part does, or its second after the first has completed. -/
theorem chain_eq_fault {α β : Type} {r : Result α} {f : α → Result β} {e : Fault} :
    chain r f = .fault e ↔ r = .fault e ∨ ∃ x, r = .next x ∧ f x = .fault e := by
  cases r <;> simp [chain]

/-- A sequence is refused when one of its parts is. -/
theorem chain_eq_refused {α β : Type} {r : Result α} {f : α → Result β} {e : Refusal} :
    chain r f = .refused e ↔ r = .refused e ∨ ∃ x, r = .next x ∧ f x = .refused e := by
  cases r <;> simp [chain]

/-! ### Routing -/

/-- The routing table read from an address's number (20_memory.md R99). -/
theorem route_spec (a : Word) :
    (a.toNat < 0x4000 ∧ route a = .romFixed) ∨ (0x4000 ≤ a.toNat ∧ a.toNat < 0x8000 ∧ route a = .romSwitch)
      ∨ (0x8000 ≤ a.toNat ∧ a.toNat < 0xA000 ∧ route a = .videoRam)
      ∨ (0xA000 ≤ a.toNat ∧ a.toNat < 0xC000 ∧ route a = .cartRam)
      ∨ (0xC000 ≤ a.toNat ∧ a.toNat < 0xFE00 ∧ route a = .workRam)
      ∨ (0xFE00 ≤ a.toNat ∧ a.toNat < 0xFEA0 ∧ route a = .sprite)
      ∨ (0xFEA0 ≤ a.toNat ∧ a.toNat < 0xFF00 ∧ route a = .gap)
      ∨ (a.toNat = 0xFF00 ∧ route a = .joypad) ∨ (a.toNat = 0xFF01 ∧ route a = .serial)
      ∨ (0xFF02 ≤ a.toNat ∧ route a = .io) := by
  unfold route
  repeat' split
  all_goals (simp only [reduceCtorEq, and_false, and_true, false_or, or_false]; omega)

theorem route_romFixed {a : Word} (h : a.toNat < 0x4000) : route a = .romFixed := by
  rcases route_spec a with h' | h' | h' | h' | h' | h' | h' | h' | h' | h' <;> first | omega | exact h'.2

theorem route_romSwitch {a : Word} (h : 0x4000 ≤ a.toNat) (h2 : a.toNat < 0x8000) : route a = .romSwitch := by
  rcases route_spec a with h' | h' | h' | h' | h' | h' | h' | h' | h' | h' <;> first | omega | exact h'.2.2

theorem route_cartRam {a : Word} (h : 0xA000 ≤ a.toNat) (h2 : a.toNat < 0xC000) : route a = .cartRam := by
  rcases route_spec a with h' | h' | h' | h' | h' | h' | h' | h' | h' | h' <;> first | omega | exact h'.2.2

theorem route_joypad {a : Word} (h : a.toNat = 0xFF00) : route a = .joypad := by
  rcases route_spec a with h' | h' | h' | h' | h' | h' | h' | h' | h' | h' <;> first | omega | exact h'.2

theorem route_serial {a : Word} (h : a.toNat = 0xFF01) : route a = .serial := by
  rcases route_spec a with h' | h' | h' | h' | h' | h' | h' | h' | h' | h' <;> first | omega | exact h'.2

/-- The address lies in a window of the flat array (10_state.md R30). -/
def InFlat (a : Word) : Prop :=
  (0x8000 ≤ a.toNat ∧ a.toNat < 0xA000) ∨ (0xC000 ≤ a.toNat ∧ a.toNat < 0xFF00) ∨ 0xFF02 ≤ a.toNat

theorem route_flat {a : Word} (h : InFlat a) :
    route a = .videoRam ∨ route a = .workRam ∨ route a = .sprite ∨ route a = .gap ∨ route a = .io := by
  unfold InFlat at h
  rcases route_spec a with h' | h' | h' | h' | h' | h' | h' | h' | h' | h' <;> first | omega | simp [h'.2]

/-- Every address is in one of six kinds of window (10_state.md R35). -/
theorem windows (a : Word) :
    a.toNat < 0x4000 ∨ (0x4000 ≤ a.toNat ∧ a.toNat < 0x8000) ∨ (0xA000 ≤ a.toNat ∧ a.toNat < 0xC000)
      ∨ a.toNat = 0xFF00 ∨ a.toNat = 0xFF01 ∨ InFlat a := by
  unfold InFlat
  omega

/-- What a read answers, by the region of the address (20_memory.md R100). -/
theorem readByte_region (a : Word) (s : State) :
    readByte a s = match route a with
      | .romFixed => bufferRead .rom s.cart.rom a.toNat
      | .romSwitch => bufferRead .rom s.cart.rom (romBankedIndex s.cart a.toNat)
      | .cartRam => readRamBanked s.cart a.toNat
      | .joypad => .next (joypadByte s)
      | .serial => .next s.serialByte
      | .videoRam | .workRam | .sprite | .gap | .io => .next (flatByte a s) := rfl

theorem readByte_romFixed {a : Word} (s : State) (h : a.toNat < 0x4000) :
    readByte a s = bufferRead .rom s.cart.rom a.toNat := by rw [readByte_region, route_romFixed h]

theorem readByte_romSwitch {a : Word} (s : State) (h : 0x4000 ≤ a.toNat) (h2 : a.toNat < 0x8000) :
    readByte a s = bufferRead .rom s.cart.rom (romBankedIndex s.cart a.toNat) := by
  rw [readByte_region, route_romSwitch h h2]

theorem readByte_cartRam {a : Word} (s : State) (h : 0xA000 ≤ a.toNat) (h2 : a.toNat < 0xC000) :
    readByte a s = readRamBanked s.cart a.toNat := by rw [readByte_region, route_cartRam h h2]

theorem readByte_joypad {a : Word} (s : State) (h : a.toNat = 0xFF00) : readByte a s = .next (joypadByte s) := by
  rw [readByte_region, route_joypad h]

theorem readByte_serial {a : Word} (s : State) (h : a.toNat = 0xFF01) : readByte a s = .next s.serialByte := by
  rw [readByte_region, route_serial h]

theorem readByte_flat {a : Word} (s : State) (h : InFlat a) : readByte a s = .next (flatByte a s) := by
  rw [readByte_region]
  rcases route_flat h with h' | h' | h' | h' | h' <;> rw [h']

/-- A read depends on the stores, the joypad and the serial byte only. -/
theorem readByte_congr (a : Word) (s t : State) (hc : t.cart = s.cart) (hf : flatByte a t = flatByte a s)
    (hj : t.joypSelect = s.joypSelect) (hq : t.joypQueries = s.joypQueries) (hs : t.serialByte = s.serialByte) :
    readByte a t = readByte a s := by
  rw [readByte_region, readByte_region, hc, hf, hs]
  unfold joypadByte
  rw [hj, hq]

@[simp] theorem readByte_setPc (a : Word) (v : Word) (s : State) : readByte a (s.setPc v) = readByte a s := rfl

@[simp] theorem readByte_setSp (a : Word) (v : Word) (s : State) : readByte a (s.setSp v) = readByte a s := rfl

@[simp] theorem readByte_wake (a : Word) (s : State) : readByte a (wake s) = readByte a s := rfl

@[simp] theorem afterRead_setPc (a : Word) (v : Word) (s : State) :
    afterRead a (s.setPc v) = (afterRead a s).setPc v := by unfold afterRead; split <;> rfl

@[simp] theorem afterRead_setSp (a : Word) (v : Word) (s : State) :
    afterRead a (s.setSp v) = (afterRead a s).setSp v := by unfold afterRead; split <;> rfl

@[simp] theorem flatByte_afterRead (a b : Word) (s : State) : flatByte b (afterRead a s) = flatByte b s := by
  simp [flatByte]

@[simp] theorem readable_afterRead (a b : Word) (s : State) : Readable (afterRead a s) b = Readable s b := by
  simp [Readable]

@[simp] theorem writable_afterRead (a b : Word) (s : State) : Writable (afterRead a s) b = Writable s b := by
  simp [Writable]

@[simp] theorem inv_afterRead (a : Word) (s : State) : StateOk (afterRead a s) = StateOk s := by simp [StateOk]

/-- Only a read of the joypad register uses up an answer. -/
theorem afterRead_eq_self (a : Word) (s : State) (h : a.toNat ≠ 0xFF00) : afterRead a s = s := by
  unfold afterRead
  rcases route_spec a with h' | h' | h' | h' | h' | h' | h' | h' | h' | h' <;> simp_all

/-- A read elsewhere than the joypad register is not changed by an earlier read. -/
theorem readByte_afterRead (a b : Word) (s : State) (h : b.toNat ≠ 0xFF00) : readByte b (afterRead a s) = readByte b s := by
  rw [readByte_region, readByte_region]
  rcases route_spec b with h' | h' | h' | h' | h' | h' | h' | h' | h' | h' <;> simp_all

/-- A buffer read answers inside the buffer and faults with the index outside it. -/
theorem bufferRead_spec (sp : Space) (b : Buffer) (i : Nat) :
    (i < b.len ∧ bufferRead sp b i = .next (loadCell sp b.cells i))
      ∨ (¬i < b.len ∧ bufferRead sp b i = .fault (.bankIndexOutOfRange i)) := by
  unfold bufferRead
  split
  · next h => exact .inl ⟨h, rfl⟩
  · next h => exact .inr ⟨h, rfl⟩

/-- The cartridge RAM window: what a read of it answers (20_memory.md R63, R87, R90). -/
theorem readRamBanked_spec (c : Cartridge) (a : Nat) :
    ((c.variant = .noBanking ∨ c.ramEnable = false) ∧ readRamBanked c a = .next 0x00)
      ∨ (c.variant = .bankSwitching ∧ c.ramEnable = true ∧ c.ramBankCount = 0
          ∧ readRamBanked c a = .fault (.bankIndexOutOfRange (a - 0xA000)))
      ∨ (c.variant = .bankSwitching ∧ c.ramEnable = true ∧ c.ramBankCount ≠ 0
          ∧ readRamBanked c a = bufferRead .ram c.ram (ramBankedIndex c a)) := by
  unfold readRamBanked
  cases hv : c.variant
  · exact .inl ⟨.inl rfl, rfl⟩
  · cases he : c.ramEnable
    · exact .inl ⟨.inr rfl, rfl⟩
    · by_cases h0 : c.ramBankCount = 0 <;> simp [h0]

/-- A read answers a byte or faults with an index; it is never refused. -/
theorem readByte_outcome (a : Word) (s : State) :
    (∃ v, readByte a s = .next v) ∨ ∃ k, readByte a s = .fault (.bankIndexOutOfRange k) := by
  rw [readByte_region]
  have buf : ∀ (sp : Space) (b : Buffer) (i : Nat),
      (∃ v, bufferRead sp b i = .next v) ∨ ∃ k, bufferRead sp b i = .fault (.bankIndexOutOfRange k) := by
    intro sp b i
    rcases bufferRead_spec sp b i with ⟨-, h⟩ | ⟨-, h⟩
    · exact .inl ⟨_, h⟩
    · exact .inr ⟨_, h⟩
  split
  · exact buf _ _ _
  · exact buf _ _ _
  · rcases readRamBanked_spec s.cart a.toNat with ⟨-, h⟩ | ⟨-, -, -, h⟩ | ⟨-, -, -, h⟩
    · exact .inl ⟨_, h⟩
    · exact .inr ⟨_, h⟩
    · rw [h]; exact buf _ _ _
  all_goals exact .inl ⟨_, rfl⟩

/-- `busRead` in terms of the byte it answers. -/
theorem read_of_readByte (a : Word) (s : State) (v : Byte) (h : readByte a s = .next v) :
    busRead a s = .next (v, afterRead a s) := by simp [busRead, h]

/-! ### Writing -/

/-- Everything a completed write can have done (20_memory.md R101, R104, R109, R111). -/
theorem write_next (a : Word) (v : Byte) (s u : State) (h : busWrite a v s = .next u) :
    (a.toNat < 0x8000 ∧ u = { s with cart := handleControlWrite s.cart a.toNat v })
      ∨ (0x8000 ≤ a.toNat ∧ ¬(0xA000 ≤ a.toNat ∧ a.toNat < 0xC000) ∧ a.toNat ≠ 0xFF00 ∧ a.toNat ≠ 0xFF01
          ∧ u = setFlat a v s)
      ∨ (0xA000 ≤ a.toNat ∧ a.toNat < 0xC000 ∧ (s.cart.variant = .noBanking ∨ s.cart.ramEnable = false) ∧ u = s)
      ∨ (0xA000 ≤ a.toNat ∧ a.toNat < 0xC000 ∧ s.cart.variant = .bankSwitching ∧ s.cart.ramEnable = true
          ∧ s.cart.ramBankCount ≠ 0 ∧ ramBankedIndex s.cart a.toNat < s.cart.ram.len
          ∧ u = { s with dirty := true, cart := { s.cart with ram := { s.cart.ram with
              cells := storeCell .ram s.cart.ram.cells (ramBankedIndex s.cart a.toNat) v } } })
      ∨ (a.toNat = 0xFF00 ∧ u = { s with joypSelect := v.extractLsb' 4 2 })
      ∨ (a.toNat = 0xFF01 ∧ u = { s with serialByte := v }) := by
  have ram : writeCartRam a v s = .next u → 0xA000 ≤ a.toNat → a.toNat < 0xC000 →
      (0xA000 ≤ a.toNat ∧ a.toNat < 0xC000 ∧ (s.cart.variant = .noBanking ∨ s.cart.ramEnable = false) ∧ u = s)
      ∨ (0xA000 ≤ a.toNat ∧ a.toNat < 0xC000 ∧ s.cart.variant = .bankSwitching ∧ s.cart.ramEnable = true
          ∧ s.cart.ramBankCount ≠ 0 ∧ ramBankedIndex s.cart a.toNat < s.cart.ram.len
          ∧ u = { s with dirty := true, cart := { s.cart with ram := { s.cart.ram with
              cells := storeCell .ram s.cart.ram.cells (ramBankedIndex s.cart a.toNat) v } } }) := by
    intro hw h1 h2
    unfold writeCartRam writeRamBanked at hw
    cases hv : s.cart.variant with
    | noBanking => simp only [hv, chain_next, Host.Outcome.next.injEq] at hw; exact .inl ⟨h1, h2, .inl rfl, hw.symm⟩
    | bankSwitching =>
      cases he : s.cart.ramEnable with
      | false =>
        simp only [hv, he, Bool.false_eq_true, if_false, chain_next, Host.Outcome.next.injEq] at hw
        exact .inl ⟨h1, h2, .inr rfl, hw.symm⟩
      | true =>
        by_cases h0 : s.cart.ramBankCount = 0
        · simp [hv, he, h0] at hw
        · by_cases hi : ramBankedIndex s.cart a.toNat < s.cart.ram.len
          · simp only [hv, he, h0, if_true, if_false, bufferWrite, hi, chain_next, Host.Outcome.next.injEq] at hw
            exact .inr ⟨h1, h2, rfl, rfl, h0, hi, by rw [← hw]; simp [hv, he]⟩
          · simp [hv, he, h0, bufferWrite, hi] at hw
  unfold busWrite at h
  rcases route_spec a with h' | h' | h' | h' | h' | h' | h' | h' | h' | h'
  · simp only [h'.2, Host.Outcome.next.injEq] at h; exact .inl ⟨by omega, h.symm⟩
  · simp only [h'.2.2, Host.Outcome.next.injEq] at h; exact .inl ⟨by omega, h.symm⟩
  · simp only [h'.2.2, Host.Outcome.next.injEq] at h; exact .inr (.inl ⟨by omega, by omega, by omega, by omega, h.symm⟩)
  · simp only [h'.2.2] at h
    rcases ram h h'.1 h'.2.1 with r | r
    · exact .inr (.inr (.inl r))
    · exact .inr (.inr (.inr (.inl r)))
  · simp only [h'.2.2, Host.Outcome.next.injEq] at h; exact .inr (.inl ⟨by omega, by omega, by omega, by omega, h.symm⟩)
  · simp only [h'.2.2, Host.Outcome.next.injEq] at h; exact .inr (.inl ⟨by omega, by omega, by omega, by omega, h.symm⟩)
  · simp only [h'.2.2, Host.Outcome.next.injEq] at h; exact .inr (.inl ⟨by omega, by omega, by omega, by omega, h.symm⟩)
  · simp only [h'.2, Host.Outcome.next.injEq] at h; exact .inr (.inr (.inr (.inr (.inl ⟨h'.1, h.symm⟩))))
  · simp only [h'.2, Host.Outcome.next.injEq] at h; exact .inr (.inr (.inr (.inr (.inr ⟨h'.1, h.symm⟩))))
  · simp only [h'.2, Host.Outcome.next.injEq] at h; exact .inr (.inl ⟨by omega, by omega, by omega, by omega, h.symm⟩)

/-- A write completes, or faults with an index; it is never refused. -/
theorem write_outcome (a : Word) (v : Byte) (s : State) :
    (∃ u, busWrite a v s = .next u) ∨ ∃ k, busWrite a v s = .fault (.bankIndexOutOfRange k) := by
  have buf : ∀ (sp : Space) (b : Buffer) (i : Nat),
      (∃ u, bufferWrite sp b i v = .next u) ∨ ∃ k, bufferWrite sp b i v = .fault (.bankIndexOutOfRange k) := by
    intro sp b i
    unfold bufferWrite
    split
    · exact .inl ⟨_, rfl⟩
    · exact .inr ⟨_, rfl⟩
  unfold busWrite
  split
  any_goals exact .inl ⟨_, rfl⟩
  unfold writeCartRam writeRamBanked
  cases s.cart.variant with
  | noBanking => exact .inl ⟨_, rfl⟩
  | bankSwitching =>
    cases s.cart.ramEnable with
    | false => exact .inl ⟨_, rfl⟩
    | true =>
      by_cases h0 : s.cart.ramBankCount = 0
      · exact .inr ⟨_, by simp [h0]; rfl⟩
      · rcases buf .ram s.cart.ram (ramBankedIndex s.cart a.toNat) with ⟨u, hu⟩ | ⟨k, hk⟩
        · exact .inl ⟨_, by simp [h0, hu]; rfl⟩
        · exact .inr ⟨_, by simp [h0, hk]; rfl⟩

/-- Every control write changes bank registers only (20_memory.md R65, R81 to R84). -/
theorem handleControlWrite_frame (c : Cartridge) (a : Nat) (v : Byte) :
    handleControlWrite c a v = { c with
      romBank := (handleControlWrite c a v).romBank, ramBank := (handleControlWrite c a v).ramBank
      ramEnable := (handleControlWrite c a v).ramEnable, bankMode := (handleControlWrite c a v).bankMode } := by
  unfold handleControlWrite controlRamEnable controlRomLow controlUpper controlMode
  repeat' split
  all_goals rfl

/-- What no write changes: everything but the stores, `dirty`, the joypad selection and the serial byte; of the
cartridge everything but the RAM bytes and the bank registers. -/
theorem write_frame (a : Word) (v : Byte) (s u : State) (h : busWrite a v s = .next u) :
    u.regs = s.regs ∧ u.ime = s.ime ∧ u.imePending = s.imePending ∧ u.runState = s.runState
      ∧ u.divCounter = s.divCounter ∧ u.timerCounter = s.timerCounter ∧ u.cycles = s.cycles
      ∧ u.joypQueries = s.joypQueries ∧ u.cart.variant = s.cart.variant ∧ u.cart.romBankCount = s.cart.romBankCount
      ∧ u.cart.ramBankCount = s.cart.ramBankCount ∧ u.cart.rom = s.cart.rom ∧ u.cart.ram.len = s.cart.ram.len := by
  rcases write_next a v s u h with ⟨-, h⟩ | ⟨-, -, -, -, h⟩ | ⟨-, -, -, h⟩ | ⟨-, -, -, -, -, -, h⟩ | ⟨-, h⟩ | ⟨-, h⟩
  · rw [h, handleControlWrite_frame]; simp
  all_goals rw [h]; simp

/-- A write does not read the registers. -/
theorem write_setSp (a : Word) (v : Byte) (w : Word) (s : State) :
    busWrite a v (s.setSp w) = chain (busWrite a v s) fun u => .next (u.setSp w) := by
  unfold busWrite
  split
  any_goals rfl
  unfold writeCartRam
  simp only [State.setSp_cart]
  cases h : writeRamBanked s.cart a.toNat v with
  | next r => cases r <;> rfl
  | fault e => rfl
  | refused e => rfl

end Sys2Proof.Machine
end

