-- ==== Sys2Proof/Laws/Access.lean ====
section
/-! SUPPORT. The invariant through one Router write, what a write leaves writable, and pushing and popping in terms of
their two accesses. -/

namespace Sys2Proof.Machine

/-- A register update that keeps `F[3:0] = 0` keeps the invariant. -/
theorem stateOk_setRegs (s : State) (g : Regs) (n : Nat) (hf : g.f = s.regs.f ∨ g.f &&& 0x0F = 0) (h : StateOk s = true) :
    StateOk { s with regs := g, cycles := n } = true := by
  simp only [StateOk, Bool.and_eq_true, decide_eq_true_eq] at h ⊢
  refine ⟨h.1, ?_⟩
  rcases hf with e | e
  · rw [e]; exact h.2
  · exact e

/-- A register value forced away from zero. -/
theorem romBankForced_ne_zero (x : Byte) : romBankForced x ≠ 0 := by
  unfold romBankForced
  split <;> simp_all

/-- A control write keeps the bank register invariant (10_state.md R40, R43). -/
theorem bankRegsOk_handleControlWrite (c : Cartridge) (a : Nat) (v : Byte) (h : bankRegsOk c = true) :
    bankRegsOk (handleControlWrite c a v) = true := by
  unfold handleControlWrite
  split
  · exact h
  · simp only [bankRegsOk, Bool.and_eq_true, decide_eq_true_eq] at h ⊢
    obtain ⟨b1, b2⟩ := h
    split
    · unfold controlRamEnable
      split
      · exact ⟨b1, b2⟩
      · split <;> exact ⟨b1, b2⟩
    · split
      · refine ⟨romBankForced_ne_zero _, ?_⟩
        simp only [controlRomLow]
        split at b2
        · exact b2
        · rw [decide_eq_true_eq] at b2
          have low : ∀ v : Byte, romBankForced (0 ||| v &&& 0x1F) &&& 0xE0 = 0 := by decide
          refine decide_eq_true (?_ : romBankForced (c.romBank &&& 0xE0 ||| v &&& 0x1F) &&& 0xE0 = 0)
          rw [b2]
          exact low v
      · split
        · unfold controlUpper
          split
          · next hm => exact ⟨romBankForced_ne_zero _, by simp only [hm] at b2 ⊢; exact b2⟩
          · next hm => exact ⟨b1, by simp only [hm] at b2 ⊢; exact b2⟩
        · unfold controlMode
          split
          · have low : ∀ x : Byte, romBankForced (x &&& 0x1F) &&& 0xE0 = 0 := by decide
            exact ⟨romBankForced_ne_zero _, decide_eq_true (low _)⟩
          · exact ⟨b1, by simp⟩

/-- A completed Router write keeps the invariant: the stores stay canonical and of the right size. -/
theorem stateOk_busWrite {s u : State} (a : Word) (v : Byte) (hi : StateOk s = true) (h : busWrite a v s = .next u) :
    StateOk u = true := by
  simp only [StateOk, Bool.and_eq_true, decide_eq_true_eq] at hi ⊢
  obtain ⟨⟨⟨h1, h2⟩, h3⟩, h4⟩ := hi
  rcases write_next a v s u h with ⟨l, h⟩ | ⟨_, _, _, _, h⟩ | ⟨_, _, _, h⟩ | ⟨_, _, e1, _, _, _, h⟩ | ⟨_, h⟩ | ⟨_, h⟩
  · subst h
    refine ⟨⟨⟨h1, h2⟩, ?_⟩, h4⟩
    show (handleControlWrite s.cart a.toNat v).ok = true
    unfold Cartridge.ok at h3 ⊢
    have hr := bankRegsOk_handleControlWrite s.cart a.toNat v
    have hf := handleControlWrite_frame s.cart a.toNat v
    cases hv : s.cart.variant with
    | noBanking => simp only [handleControlWrite, hv] at h3 ⊢; exact h3
    | bankSwitching =>
      simp only [hv, Bool.and_eq_true] at h3
      have ok := hr h3.2.2
      rw [hf] at ok ⊢
      simp only [hv, Bool.and_eq_true]
      exact ⟨h3.1, h3.2.1, ok⟩
  · subst h
    exact ⟨⟨⟨wf_storeCell _ _ _ _ h1, below_storeCell _ _ _ _ _ a.isLt h2⟩, h3⟩, h4⟩
  · subst h
    exact ⟨⟨⟨h1, h2⟩, h3⟩, h4⟩
  · subst h
    refine ⟨⟨⟨h1, h2⟩, ?_⟩, h4⟩
    unfold Cartridge.ok at h3 ⊢
    simp only [e1, Bool.and_eq_true, Buffer.holds, decide_eq_true_eq] at h3 ⊢
    exact ⟨h3.1, ⟨⟨h3.2.1.1.1, wf_storeCell _ _ _ _ h3.2.1.1.2⟩, below_storeCell _ _ _ _ _ (by omega) h3.2.1.2⟩, h3.2.2⟩
  · subst h
    exact ⟨⟨⟨h1, h2⟩, h3⟩, h4⟩
  · subst h
    exact ⟨⟨⟨h1, h2⟩, h3⟩, h4⟩

/-- A write outside the control windows changes no address's writability, and a control write only that of the
cartridge RAM window. -/
theorem writable_busWrite {s u : State} (a b : Word) (v : Byte) (h : busWrite a v s = .next u)
    (hab : 0x8000 ≤ a.toNat ∨ b.toNat < 0xA000 ∨ 0xC000 ≤ b.toNat) : Writable u b = Writable s b := by
  rcases write_next a v s u h with ⟨l, h⟩ | ⟨-, -, -, -, h⟩ | ⟨-, -, -, h⟩ | ⟨-, -, -, -, -, -, h⟩ | ⟨-, h⟩ | ⟨-, h⟩
  · have hb : b.toNat < 0xA000 ∨ 0xC000 ≤ b.toNat := by omega
    unfold Writable
    rcases route_spec b with h' | h' | h' | h' | h' | h' | h' | h' | h' | h' <;> first | omega | simp only [h'.2]
  all_goals (subst h; rfl)

/-- `Push16` (00_scope.md R10) when both of its writes complete. -/
theorem push16_next (v : Word) (s m u : State) (hm : busWrite (s.regs.sp - 1) (hiByte v) s = .next m)
    (hu : busWrite (s.regs.sp - 2) (loByte v) m = .next u) : push16 v s = .next (u.setSp (s.regs.sp - 2)) := by
  have e : (s.setSp (s.regs.sp - 1)).regs.sp = s.regs.sp - 1 := rfl
  have sub : s.regs.sp - 1 - 1 = s.regs.sp - 2 := by bv_omega
  unfold push16
  rw [write_setSp, hm]
  simp only [chain_next, State.setSp_regs, sub]
  show busWrite (s.regs.sp - 2) (loByte v) (m.setSp (s.regs.sp - 2)) = _
  rw [write_setSp, hu, chain_next]

/-- A fault of its first write is the outcome of `Push16`. -/
theorem push16_fault (v : Word) (s : State) (e : Fault) (h : busWrite (s.regs.sp - 1) (hiByte v) s = .fault e) :
    push16 v s = .fault e := by
  unfold push16
  rw [write_setSp, h]
  rfl

/-- `Pop16` (00_scope.md R10) when both of its reads complete. -/
theorem pop16_next (s : State) (lo hi : Byte) (hl : readByte s.regs.sp s = .next lo)
    (hh : readByte (s.regs.sp + 1) (afterRead s.regs.sp s) = .next hi) :
    pop16 s = .next (joinBytes hi lo, (afterRead (s.regs.sp + 1) (afterRead s.regs.sp s)).setSp (s.regs.sp + 2)) := by
  unfold pop16
  rw [read_of_readByte _ _ _ hl]
  simp only [chain_next]
  rw [read_of_readByte _ _ hi (by simpa using hh)]
  simp only [chain_next, afterRead_setSp]
  rfl

/-- A fault of its first read is the outcome of `Pop16`. -/
theorem pop16_fault (s : State) (e : Fault) (h : readByte s.regs.sp s = .fault e) : pop16 s = .fault e := by
  simp [pop16, busRead, h]

/-- Everything an overwrite of an I/O byte does (log 21): it is the Router's write there, or nothing. -/
theorem overwriteIoByte_cases (a : Word) (v : Byte) (s : State) :
    busWrite a v s = .next (overwriteIoByte a v s) ∨ overwriteIoByte a v s = s := by
  unfold overwriteIoByte busWrite
  cases route a <;> simp

/-- The invariant under an overwrite of the environment. -/
theorem stateOk_envOverwrite (p : Params) (a : Word) (v : Byte) {s : State} (hi : StateOk s = true) :
    StateOk (envOverwrite p a v s) = true := by
  unfold envOverwrite
  split
  · obtain h | h := overwriteIoByte_cases a v s
    · exact stateOk_busWrite a v hi h
    · rw [h]; exact hi
  · exact hi

end Sys2Proof.Machine
end

