-- ==== Sys2Proof/Laws/Decode.lean ====
section
/-! SUPPORT. Decoding by length, and the instructions whose first byte the step rules name. -/

namespace Sys2Proof

open Machine

/-- A statement about every byte, from its 256 values. -/
theorem byte_cases {P : Byte → Prop} (h : ∀ n, n < 256 → P (BitVec.ofNat 8 n)) (v : Byte) : P v := by
  have hv := h v.toNat v.isLt
  rwa [BitVec.ofNat_toNat, BitVec.setWidth_eq] at hv

/-- Decoding a one-byte instruction. -/
theorem decode_one (op : Byte) (rest : List Byte) (h : lengthOf op = 1) :
    decode (op :: rest) = .ok (assemble op (rest.getD 0 0) (rest.getD 1 0), rest) := by
  simp [decode, h]

/-- Decoding a two-byte instruction. -/
theorem decode_two (op b1 : Byte) (rest : List Byte) (h : lengthOf op = 2) :
    decode (op :: b1 :: rest) = .ok (assemble op b1 (rest.getD 0 0), rest) := by
  simp [decode, h]

/-- Decoding a three-byte instruction. -/
theorem decode_three (op b1 b2 : Byte) (rest : List Byte) (h : lengthOf op = 3) :
    decode (op :: b1 :: b2 :: rest) = .ok (assemble op b1 b2, rest) := by
  simp [decode, h]

theorem decodes_one (op : Byte) (i : Instr) (h : lengthOf op = 1) (ha : ∀ b1 b2, assemble op b1 b2 = i) :
    Decodes [op] i := fun rest => (decode_one op rest h).trans (by rw [ha])

theorem decodes_two (op b1 : Byte) (i : Instr) (h : lengthOf op = 2) (ha : ∀ b2, assemble op b1 b2 = i) :
    Decodes [op, b1] i := fun rest => (decode_two op b1 rest h).trans (by rw [ha])

theorem decodes_three (op b1 b2 : Byte) (i : Instr) (h : lengthOf op = 3) (ha : assemble op b1 b2 = i) :
    Decodes [op, b1, b2] i := fun rest => (decode_three op b1 b2 rest h).trans (by rw [ha])

/-- An instruction is one, two or three bytes long (30_encoding.md R140). -/
theorem lengthOf_cases (op : Byte) : lengthOf op = 1 ∨ lengthOf op = 2 ∨ lengthOf op = 3 := by
  unfold lengthOf
  repeat' split
  all_goals simp

/-- Everything a successful decoding tells: the first byte, the operand bytes and the rest. -/
theorem decode_ok (bytes rest : List Byte) (i : Instr) (h : decode bytes = .ok (i, rest)) :
    ∃ op tail, bytes = op :: tail ∧ lengthOf op ≤ tail.length + 1 ∧ i = assemble op (tail.getD 0 0) (tail.getD 1 0)
      ∧ rest = tail.drop (lengthOf op - 1) := by
  cases bytes with
  | nil => simp [decode] at h
  | cons op tail =>
    simp only [decode] at h
    split at h
    · cases h
    · next hl =>
      simp only [Except.ok.injEq, Prod.mk.injEq] at h
      exact ⟨op, tail, rfl, by omega, h.1.symm, h.2.symm⟩

/-- The prefixed instruction of a second byte (30_encoding.md R154). -/
theorem assemble_prefixed (b1 b2 : Byte) : assemble 0xCB b1 b2 = decodePrefixed b1 := rfl

set_option maxRecDepth 4000 in
/-- Only the byte `0x76` decodes to `HALT` (30_encoding.md R151). -/
theorem assemble_eq_halt (op b1 b2 : Byte) (h : assemble op b1 b2 = .halt) : op = 0x76 := by
  by_cases hcb : op = 0xCB
  · subst hcb
    have hp : ∀ b, decodePrefixed b ≠ .halt := by decide
    exact absurd h (hp b1)
  · refine byte_cases (P := fun op => ¬op = 0xCB → assemble op b1 b2 = .halt → op = 0x76) ?_ op hcb h
    intro n hn
    interval_cases n <;> intro hcb h <;> first | rfl | exact absurd rfl hcb | exact absurd h (by intro h; cases h)

set_option maxRecDepth 4000 in
/-- Only the byte `0xD9` decodes to `RETI` (30_encoding.md R153). -/
theorem assemble_eq_reti (op b1 b2 : Byte) (h : assemble op b1 b2 = .reti) : op = 0xD9 := by
  by_cases hcb : op = 0xCB
  · subst hcb
    have hp : ∀ b, decodePrefixed b ≠ .reti := by decide
    exact absurd h (hp b1)
  · refine byte_cases (P := fun op => ¬op = 0xCB → assemble op b1 b2 = .reti → op = 0xD9) ?_ op hcb h
    intro n hn
    interval_cases n <;> intro hcb h <;> first | rfl | exact absurd rfl hcb | exact absurd h (by intro h; cases h)

end Sys2Proof
end

