-- ==== Sys2Proof/Laws/Flags.lean ====
section
/-! SUPPORT. The flag register: what `packF` packs, and that every computation of the model leaves `F[3:0] = 0`. -/

namespace Sys2Proof.Machine

/-- The four flags of a packed flag register. -/
theorem flagsAre_packF (z n h c : Bool) : FlagsAre (packF z n h c) z n h c := by
  cases z <;> cases n <;> cases h <;> cases c <;> exact ⟨rfl, rfl, rfl, rfl, rfl⟩

@[simp] theorem flagZ_packF (z n h c : Bool) : flagZ (packF z n h c) = z := (flagsAre_packF z n h c).1

@[simp] theorem flagN_packF (z n h c : Bool) : flagN (packF z n h c) = n := (flagsAre_packF z n h c).2.1

@[simp] theorem flagH_packF (z n h c : Bool) : flagH (packF z n h c) = h := (flagsAre_packF z n h c).2.2.1

@[simp] theorem flagC_packF (z n h c : Bool) : flagC (packF z n h c) = c := (flagsAre_packF z n h c).2.2.2.1

/-- A packed flag register has its low four bits zero (10_state.md R22). -/
@[simp] theorem packF_low (z n h c : Bool) : packF z n h c &&& 0x0F = 0 := by
  cases z <;> cases n <;> cases h <;> cases c <;> rfl

/-- Four flags determine the flag register. -/
theorem flagsAre_unique (f g : Byte) (z n h c : Bool) (hf : FlagsAre f z n h c) (hg : FlagsAre g z n h c) : f = g := by
  have low : ∀ v : Byte, v.extractLsb' 0 4 = 0#4 → ∀ i, i < 4 → v.getLsbD i = false := by
    intro v hv i hi
    have e : (v.extractLsb' 0 4).getLsbD i = false := by rw [hv]; simp
    simpa [hi] using e
  apply BitVec.eq_of_getLsbD_eq
  intro i hi
  obtain ⟨f7, f6, f5, f4, f0⟩ := hf
  obtain ⟨g7, g6, g5, g4, g0⟩ := hg
  by_cases h4 : i < 4
  · rw [low f f0 i h4, low g g0 i h4]
  · have hc : i = 4 ∨ i = 5 ∨ i = 6 ∨ i = 7 := by omega
    rcases hc with rfl | rfl | rfl | rfl <;> simp_all

/-- One bit of a byte, as a slice. -/
theorem ofBool_getLsbD (w : Byte) (i : Nat) : BitVec.ofBool (w.getLsbD i) = w.extractLsb' i 1 := by
  apply BitVec.eq_of_getLsbD_eq
  intro j hj
  have h0 : j = 0 := by omega
  subst h0
  simp

/-- A byte computed from an integer is zero exactly when the integer is 0 modulo 256. -/
theorem ofInt_eq_zero (d : Int) : BitVec.ofInt 8 d = 0 ↔ d % 256 = 0 := by
  rw [← BitVec.toNat_inj]
  simp only [BitVec.toNat_ofInt, BitVec.ofNat_eq_ofNat, BitVec.toNat_ofNat]
  omega

/-- A byte computed from a natural number is zero exactly when the number is 0 modulo 256. -/
theorem ofNat_eq_zero (n : Nat) : BitVec.ofNat 8 n = 0 ↔ n % 256 = 0 := by
  rw [← BitVec.toNat_inj]
  simp

/-- The value of a carry flag as an integer. -/
theorem carryIn_eq (s : State) : carryIn s.regs.f = carryOf s := by
  unfold carryIn carryOf flagC
  cases s.regs.f.getLsbD 4 <;> rfl

/-- A condition holds exactly when the spec's condition is true (30_encoding.md R147). -/
theorem condHolds_iff (cc : Cond) (f : Byte) : condHolds cc f = true ↔ CondTrue cc f := by
  cases cc <;> simp [condHolds, CondTrue, flagZ, flagC]

/-- The accumulator operations leave the low four bits of `F` zero. -/
@[simp] theorem alu_low (a v f : Byte) :
    (aluAdd a v f).f &&& 0x0F = 0 ∧ (aluAdc a v f).f &&& 0x0F = 0 ∧ (aluSub a v f).f &&& 0x0F = 0
      ∧ (aluSbc a v f).f &&& 0x0F = 0 ∧ (aluAnd a v f).f &&& 0x0F = 0 ∧ (aluXor a v f).f &&& 0x0F = 0
      ∧ (aluOr a v f).f &&& 0x0F = 0 ∧ (aluCp a v f).f &&& 0x0F = 0 := by
  refine ⟨?_, ?_, ?_, ?_, ?_, ?_, ?_, ?_⟩ <;> exact packF_low _ _ _ _

/-- The one-operand operations leave the low four bits of `F` zero. -/
@[simp] theorem unary_low (w f : Byte) :
    (incByte w f).f &&& 0x0F = 0 ∧ (decByte w f).f &&& 0x0F = 0 ∧ (aluDaa w f).f &&& 0x0F = 0
      ∧ (aluCpl w f).f &&& 0x0F = 0 ∧ scfFlags f &&& 0x0F = 0 ∧ ccfFlags f &&& 0x0F = 0 := by
  refine ⟨?_, ?_, ?_, ?_, ?_, ?_⟩ <;> exact packF_low _ _ _ _

/-- The rotates and shifts leave the low four bits of `F` zero. -/
@[simp] theorem rot_low (w f : Byte) :
    (rotRlc w f).f &&& 0x0F = 0 ∧ (rotRrc w f).f &&& 0x0F = 0 ∧ (rotRl w f).f &&& 0x0F = 0 ∧ (rotRr w f).f &&& 0x0F = 0
      ∧ (rotSla w f).f &&& 0x0F = 0 ∧ (rotSra w f).f &&& 0x0F = 0 ∧ (rotSwap w f).f &&& 0x0F = 0
      ∧ (rotSrl w f).f &&& 0x0F = 0 := by
  refine ⟨?_, ?_, ?_, ?_, ?_, ?_, ?_, ?_⟩ <;> exact packF_low _ _ _ _

end Sys2Proof.Machine
end

