-- ==== Sys2Proof/Laws/Effects.lean ====
section
/-! SUPPORT. What one instruction can do at most, said once over all of them: register updates, Router reads and Router
writes. The invariants follow from this without opening a meaning again. -/

namespace Sys2Proof.Machine

/-- `F` is left as it is, or gets a value with its low four bits zero. -/
def FlagsKept (g h : Regs) : Prop := h.f = g.f ∨ h.f &&& 0x0F = 0

/-- `t` is `s` after register updates, Router reads and completed Router writes. -/
inductive Effects : State → State → Prop where
  | none (s : State) : Effects s s
  | regs {s t : State} (g : Regs) (n : Nat) : Effects s t → FlagsKept t.regs g → Effects s { t with regs := g, cycles := n }
  | asks {s t : State} (a : Word) : Effects s t → Effects s (afterRead a t)
  | stores {s t u : State} (a : Word) (v : Byte) : Effects s t → busWrite a v t = .next u → Effects s u

/-- The fault of an access made in the course of such effects. -/
def AccessFault (s : State) (k : Nat) : Prop :=
  ∃ u a, Effects s u ∧ (readByte a u = .fault (.bankIndexOutOfRange k) ∨ ∃ v, busWrite a v u = .fault (.bankIndexOutOfRange k))

/-- An operation of the machine begun at `s`: it answers a value that meets `post`, or stops on the fault of an access. -/
def Runs {α : Type} (s : State) (post : α → Prop) (r : Result α) : Prop :=
  match r with
  | .next x => post x
  | .fault e => ∃ k, e = .bankIndexOutOfRange k ∧ AccessFault s k
  | .refused _ => False

theorem Runs.chain {α β : Type} {s : State} {p : α → Prop} {q : β → Prop} {r : Result α} {f : α → Result β}
    (h : Runs s p r) (hf : ∀ x, p x → Runs s q (f x)) : Runs s q (chain r f) := by
  cases r with
  | next x => exact hf x h
  | fault e => exact h
  | refused e => exact h

theorem Runs.weaken {α : Type} {s : State} {p q : α → Prop} {r : Result α} (h : Runs s p r) (hq : ∀ x, p x → q x) :
    Runs s q r := by
  cases r with
  | next x => exact hq x h
  | fault e => exact h
  | refused e => exact h

/-- A register update that keeps `F[3:0] = 0`. -/
theorem Effects.mapRegs {s t : State} (h : Effects s t) (f : Regs → Regs) (hf : FlagsKept t.regs (f t.regs)) :
    Effects s (t.mapRegs f) := h.regs (f t.regs) t.cycles hf

theorem Effects.took {s t : State} (h : Effects s t) (n : Nat) : Effects s (t.took n) := h.regs t.regs n (.inl rfl)

theorem Effects.setPc {s t : State} (h : Effects s t) (v : Word) : Effects s (t.setPc v) :=
  h.regs { t.regs with pc := v } t.cycles (.inl rfl)

theorem Effects.setSp {s t : State} (h : Effects s t) (v : Word) : Effects s (t.setSp v) :=
  h.regs { t.regs with sp := v } t.cycles (.inl rfl)

/-- A Router read. -/
theorem runs_busRead {s t : State} (a : Word) (h : Effects s t) :
    Runs s (fun p : Byte × State => readByte a t = .next p.1 ∧ p.2 = afterRead a t ∧ Effects s p.2) (busRead a t) := by
  rcases readByte_outcome a t with ⟨v, hv⟩ | ⟨k, hk⟩
  · rw [read_of_readByte a t v hv]
    exact ⟨hv, rfl, h.asks a⟩
  · simp only [busRead, hk, chain_fault]
    exact ⟨k, rfl, t, a, h, .inl hk⟩

/-- A Router write. -/
theorem runs_busWrite {s t : State} (a : Word) (v : Byte) (h : Effects s t) :
    Runs s (fun u => busWrite a v t = .next u ∧ Effects s u) (busWrite a v t) := by
  rcases write_outcome a v t with ⟨u, hu⟩ | ⟨k, hk⟩
  · rw [hu]
    exact ⟨rfl, h.stores a v hu⟩
  · rw [hk]
    exact ⟨k, rfl, t, a, h, .inr ⟨v, hk⟩⟩

/-- `Push16` (00_scope.md R10): two writes, and `SP` two lower. -/
theorem runs_push16 {s t : State} (v : Word) (h : Effects s t) : Runs s (Effects s) (push16 v t) :=
  (runs_busWrite _ _ (h.setSp _)).chain fun _ hu => (runs_busWrite _ _ (hu.2.setSp _)).weaken fun _ hx => hx.2

/-- `Pop16` (00_scope.md R10): two reads, and `SP` two higher. -/
theorem runs_pop16 {s t : State} (h : Effects s t) : Runs s (fun p : Word × State => Effects s p.2) (pop16 t) :=
  (runs_busRead _ h).chain fun _ h1 => (runs_busRead _ (h1.2.2.setSp _)).chain fun _ h2 => h2.2.2.setSp _

/-- The costs a step can return (00_scope.md R10). -/
def costs : List Nat := [4, 8, 12, 16, 20, 24]

/-- The meaning of an ordinary instruction: it completes at a known cost, or stops on the fault of an access. -/
def Ordinary (s : State) (r : Result State) : Prop := Runs s (fun t => Effects s t ∧ t.cycles ∈ costs) r

/-- Completing at a known cost. -/
theorem Effects.took_ordinary {s t : State} (h : Effects s t) (n : Nat) (hn : n ∈ costs) :
    Ordinary s (.next (t.took n)) := ⟨h.took n, hn⟩

/-- A register-only instruction. -/
theorem ordinary_regs (s : State) (f : Regs → Regs) (n : Nat) (hf : FlagsKept s.regs (f s.regs)) (hn : n ∈ costs) :
    Ordinary s (.next ((s.mapRegs f).took n)) := (((Effects.none s).mapRegs f hf)).took_ordinary n hn

theorem ordinary_loadReg (addr : Word) (r : Reg8) (n : Nat) (s : State) (hn : n ∈ costs) :
    Ordinary s (loadReg addr r n s) :=
  Runs.chain (p := Effects s)
    ((runs_busRead addr (Effects.none s)).chain fun _ h => h.2.2.mapRegs _ (.inl (Regs.set8_f _ _ _)))
    fun _ h => h.took_ordinary n hn

theorem ordinary_storeByte (addr : Word) (v : Byte) (n : Nat) (s : State) (hn : n ∈ costs) :
    Ordinary s (storeByte addr v n s) := (runs_busWrite addr v (Effects.none s)).chain fun _ h => h.2.took_ordinary n hn

/-- An update of `HL` after an ordinary meaning. -/
theorem ordinary_thenHl (s : State) (r : Result State) (w : Word) (h : Ordinary s r) :
    Ordinary s (chain r fun u => .next (u.mapRegs (Regs.setHl w))) :=
  h.chain fun _ hu => ⟨hu.1.mapRegs _ (.inl rfl), hu.2⟩

theorem ordinary_accReg (g : Byte → Byte → Byte → Flagged) (r : Reg8) (s : State)
    (hg : ∀ a v f, (g a v f).f &&& 0x0F = 0) : Ordinary s (accReg g r s) :=
  ordinary_regs s _ 4 (.inr (hg _ _ _)) (by decide)

theorem ordinary_accImm (g : Byte → Byte → Byte → Flagged) (n : Byte) (s : State)
    (hg : ∀ a v f, (g a v f).f &&& 0x0F = 0) : Ordinary s (accImm g n s) :=
  ordinary_regs s _ 8 (.inr (hg _ _ _)) (by decide)

theorem ordinary_accHl (g : Byte → Byte → Byte → Flagged) (s : State) (hg : ∀ a v f, (g a v f).f &&& 0x0F = 0) :
    Ordinary s (accHl g s) :=
  (runs_busRead _ (Effects.none s)).chain fun p h =>
    (h.2.2.mapRegs (fun k => { k with a := (g s.regs.a p.1 s.regs.f).val, f := (g s.regs.a p.1 s.regs.f).f })
      (.inr (hg _ _ _))).took_ordinary 8 (by decide)

theorem ordinary_updateReg (g : Byte → Byte → Flagged) (r : Reg8) (n : Nat) (s : State)
    (hg : ∀ w f, (g w f).f &&& 0x0F = 0) (hn : n ∈ costs) : Ordinary s (updateReg g r n s) :=
  ordinary_regs s _ n (.inr (hg _ _)) hn

theorem ordinary_updateHl (g : Byte → Byte → Flagged) (n : Nat) (s : State)
    (hg : ∀ w f, (g w f).f &&& 0x0F = 0) (hn : n ∈ costs) : Ordinary s (updateHl g n s) :=
  (runs_busRead _ (Effects.none s)).chain fun p h => (runs_busWrite _ _ h.2.2).chain fun _ hu =>
    ((hu.2.mapRegs (fun k => { k with f := (g p.1 s.regs.f).f }) (.inr (hg _ _)))).took_ordinary n hn

theorem ordinary_rewriteHl (g : Byte → Byte) (s : State) : Ordinary s (rewriteHl g s) :=
  (runs_busRead _ (Effects.none s)).chain fun _ h => (runs_busWrite _ _ h.2.2).chain fun _ hu =>
    hu.2.took_ordinary 16 (by decide)

theorem ordinary_callTo (target : Word) (n : Nat) (s : State) (hn : n ∈ costs) : Ordinary s (callTo target n s) :=
  (runs_push16 _ (Effects.none s)).chain fun _ h => ((h.setPc target)).took_ordinary n hn

theorem ordinary_returnTaking (n : Nat) (s : State) (hn : n ∈ costs) : Ordinary s (returnTaking n s) :=
  (runs_pop16 (Effects.none s)).chain fun _ h => ((h.setPc _)).took_ordinary n hn

/-- `RETI` is `RET` with `IME` set (45_control_flow.md R290). -/
theorem execReti_eq (s : State) : execReti s = chain (execRet s) fun u => .next { u with ime := true } := by
  unfold execReti returnFromInterrupt execRet returnTaking
  cases pop16 s <;> rfl

/-- What an instruction can do: it is ordinary, or one of the four that touch `run_state`, `IME` or `ime_pending`, or an
undefined byte. -/
theorem exec_cases (i : Instr) (s : State) :
    Ordinary s (exec i s) ∨ i = .halt ∨ i = .di ∨ i = .ei ∨ i = .reti
      ∨ ∃ op, encode i = [op] ∧ op ∈ [0xD3#8, 0xDB, 0xDD, 0xE3, 0xE4, 0xEB, 0xEC, 0xED, 0xF4, 0xFC, 0xFD]
        ∧ exec i s = .fault (.invalidOpcode op) := by
  cases i
  case halt => simp
  case di => simp
  case ei => simp
  case reti => simp
  case illegalD3 => exact .inr (.inr (.inr (.inr (.inr ⟨_, rfl, by decide, rfl⟩))))
  case illegalDB => exact .inr (.inr (.inr (.inr (.inr ⟨_, rfl, by decide, rfl⟩))))
  case illegalDD => exact .inr (.inr (.inr (.inr (.inr ⟨_, rfl, by decide, rfl⟩))))
  case illegalE3 => exact .inr (.inr (.inr (.inr (.inr ⟨_, rfl, by decide, rfl⟩))))
  case illegalE4 => exact .inr (.inr (.inr (.inr (.inr ⟨_, rfl, by decide, rfl⟩))))
  case illegalEB => exact .inr (.inr (.inr (.inr (.inr ⟨_, rfl, by decide, rfl⟩))))
  case illegalEC => exact .inr (.inr (.inr (.inr (.inr ⟨_, rfl, by decide, rfl⟩))))
  case illegalED => exact .inr (.inr (.inr (.inr (.inr ⟨_, rfl, by decide, rfl⟩))))
  case illegalF4 => exact .inr (.inr (.inr (.inr (.inr ⟨_, rfl, by decide, rfl⟩))))
  case illegalFC => exact .inr (.inr (.inr (.inr (.inr ⟨_, rfl, by decide, rfl⟩))))
  case illegalFD => exact .inr (.inr (.inr (.inr (.inr ⟨_, rfl, by decide, rfl⟩))))
  all_goals left
  case ldRrNn p nn => exact ordinary_regs s _ 12 (.inl (by cases p <;> rfl)) (by decide)
  case incRr p => exact ordinary_regs s _ 8 (.inl (by cases p <;> rfl)) (by decide)
  case decRr p => exact ordinary_regs s _ 8 (.inl (by cases p <;> rfl)) (by decide)
  case popRr p =>
    refine (runs_pop16 (Effects.none s)).chain fun q h => ((h.mapRegs _ ?_)).took_ordinary 12 (by decide)
    cases p
    case af => exact .inr (by simp only [Regs.setStack, Regs.setAf_f, BitVec.and_assoc]; simp)
    all_goals exact .inl rfl
  case pushRr p => exact (runs_push16 _ (Effects.none s)).chain fun _ h => h.took_ordinary 16 (by decide)
  case ldNnSp nn =>
    exact (runs_busWrite _ _ (Effects.none s)).chain fun _ h => (runs_busWrite _ _ h.2).chain fun _ hu =>
      hu.2.took_ordinary 20 (by decide)
  case jpCcNn cc nn =>
    simp only [exec, execJpCcNn]
    split
    · exact (((Effects.none s).setPc nn)).took_ordinary 16 (by decide)
    · exact ((Effects.none s)).took_ordinary 12 (by decide)
  case jrCcE cc e =>
    simp only [exec, execJrCcE]
    split
    · exact (((Effects.none s).setPc _)).took_ordinary 12 (by decide)
    · exact ((Effects.none s)).took_ordinary 8 (by decide)
  case callCcNn cc nn =>
    simp only [exec, execCallCcNn]
    split
    · exact ordinary_callTo nn 24 s (by decide)
    · exact ((Effects.none s)).took_ordinary 12 (by decide)
  case retCc cc =>
    simp only [exec, execRetCc]
    split
    · exact ordinary_returnTaking 20 s (by decide)
    · exact ((Effects.none s)).took_ordinary 8 (by decide)
  case bitBHl b =>
    exact (runs_busRead _ (Effects.none s)).chain fun p h =>
      (h.2.2.mapRegs (fun k => { k with f := bitFlags b p.1 k.f }) (.inr (packF_low _ _ _ _))).took_ordinary 12 (by decide)
  case resBHl b => exact ordinary_rewriteHl _ s
  case setBHl b => exact ordinary_rewriteHl _ s
  case ldHliA => exact ordinary_thenHl s _ _ (ordinary_storeByte _ _ 8 s (by decide))
  case ldHldA => exact ordinary_thenHl s _ _ (ordinary_storeByte _ _ 8 s (by decide))
  case ldAHli => exact ordinary_thenHl s _ _ (ordinary_loadReg _ _ 8 s (by decide))
  case ldAHld => exact ordinary_thenHl s _ _ (ordinary_loadReg _ _ 8 s (by decide))
  case jpNn nn => exact (((Effects.none s).setPc nn)).took_ordinary 16 (by decide)
  case jpHl => exact (((Effects.none s).setPc _)).took_ordinary 4 (by decide)
  case jrE e => exact (((Effects.none s).setPc _)).took_ordinary 12 (by decide)
  case ldSpHl => exact (((Effects.none s).setSp _)).took_ordinary 8 (by decide)
  case nop => exact ((Effects.none s)).took_ordinary 4 (by decide)
  case stop t => exact ((Effects.none s)).took_ordinary 4 (by decide)
  case callNn nn => exact ordinary_callTo nn 24 s (by decide)
  case rstT t => exact ordinary_callTo _ 16 s (by decide)
  case ret => exact ordinary_returnTaking 16 s (by decide)
  case ldRR d r => exact ordinary_regs s _ 4 (.inl (Regs.set8_f _ _ _)) (by decide)
  case ldRN r n => exact ordinary_regs s _ 8 (.inl (Regs.set8_f _ _ _)) (by decide)
  case ldRHl r => exact ordinary_loadReg _ _ 8 s (by decide)
  case ldABc => exact ordinary_loadReg _ _ 8 s (by decide)
  case ldADe => exact ordinary_loadReg _ _ 8 s (by decide)
  case ldANn nn => exact ordinary_loadReg _ _ 16 s (by decide)
  case ldhAN n => exact ordinary_loadReg _ _ 12 s (by decide)
  case ldAC => exact ordinary_loadReg _ _ 8 s (by decide)
  case ldHlR r => exact ordinary_storeByte _ _ 8 s (by decide)
  case ldHlN n => exact ordinary_storeByte _ _ 12 s (by decide)
  case ldBcA => exact ordinary_storeByte _ _ 8 s (by decide)
  case ldDeA => exact ordinary_storeByte _ _ 8 s (by decide)
  case ldNnA nn => exact ordinary_storeByte _ _ 16 s (by decide)
  case ldhNA n => exact ordinary_storeByte _ _ 12 s (by decide)
  case ldCA => exact ordinary_storeByte _ _ 8 s (by decide)
  case ldHlSpE e => exact ordinary_regs s _ 12 (.inr (packF_low _ _ _ _)) (by decide)
  case addSpE e => exact ordinary_regs s _ 16 (.inr (packF_low _ _ _ _)) (by decide)
  case addHlRr p => exact ordinary_regs s _ 8 (.inr (packF_low _ _ _ _)) (by decide)
  case addAR r => exact ordinary_accReg aluAdd r s fun _ _ _ => packF_low _ _ _ _
  case addAHl => exact ordinary_accHl aluAdd s fun _ _ _ => packF_low _ _ _ _
  case addAN n => exact ordinary_accImm aluAdd n s fun _ _ _ => packF_low _ _ _ _
  case adcAR r => exact ordinary_accReg aluAdc r s fun _ _ _ => packF_low _ _ _ _
  case adcAHl => exact ordinary_accHl aluAdc s fun _ _ _ => packF_low _ _ _ _
  case adcAN n => exact ordinary_accImm aluAdc n s fun _ _ _ => packF_low _ _ _ _
  case subR r => exact ordinary_accReg aluSub r s fun _ _ _ => packF_low _ _ _ _
  case subHl => exact ordinary_accHl aluSub s fun _ _ _ => packF_low _ _ _ _
  case subN n => exact ordinary_accImm aluSub n s fun _ _ _ => packF_low _ _ _ _
  case sbcAR r => exact ordinary_accReg aluSbc r s fun _ _ _ => packF_low _ _ _ _
  case sbcAHl => exact ordinary_accHl aluSbc s fun _ _ _ => packF_low _ _ _ _
  case sbcAN n => exact ordinary_accImm aluSbc n s fun _ _ _ => packF_low _ _ _ _
  case andR r => exact ordinary_accReg aluAnd r s fun _ _ _ => packF_low _ _ _ _
  case andHl => exact ordinary_accHl aluAnd s fun _ _ _ => packF_low _ _ _ _
  case andN n => exact ordinary_accImm aluAnd n s fun _ _ _ => packF_low _ _ _ _
  case xorR r => exact ordinary_accReg aluXor r s fun _ _ _ => packF_low _ _ _ _
  case xorHl => exact ordinary_accHl aluXor s fun _ _ _ => packF_low _ _ _ _
  case xorN n => exact ordinary_accImm aluXor n s fun _ _ _ => packF_low _ _ _ _
  case orR r => exact ordinary_accReg aluOr r s fun _ _ _ => packF_low _ _ _ _
  case orHl => exact ordinary_accHl aluOr s fun _ _ _ => packF_low _ _ _ _
  case orN n => exact ordinary_accImm aluOr n s fun _ _ _ => packF_low _ _ _ _
  case cpR r => exact ordinary_accReg aluCp r s fun _ _ _ => packF_low _ _ _ _
  case cpHl => exact ordinary_accHl aluCp s fun _ _ _ => packF_low _ _ _ _
  case cpN n => exact ordinary_accImm aluCp n s fun _ _ _ => packF_low _ _ _ _
  case incR r => exact ordinary_updateReg incByte r 4 s (fun _ _ => packF_low _ _ _ _) (by decide)
  case incHl => exact ordinary_updateHl incByte 12 s (fun _ _ => packF_low _ _ _ _) (by decide)
  case decR r => exact ordinary_updateReg decByte r 4 s (fun _ _ => packF_low _ _ _ _) (by decide)
  case decHl => exact ordinary_updateHl decByte 12 s (fun _ _ => packF_low _ _ _ _) (by decide)
  case rlcR r => exact ordinary_updateReg rotRlc r 8 s (fun _ _ => packF_low _ _ _ _) (by decide)
  case rlcHl => exact ordinary_updateHl rotRlc 16 s (fun _ _ => packF_low _ _ _ _) (by decide)
  case rrcR r => exact ordinary_updateReg rotRrc r 8 s (fun _ _ => packF_low _ _ _ _) (by decide)
  case rrcHl => exact ordinary_updateHl rotRrc 16 s (fun _ _ => packF_low _ _ _ _) (by decide)
  case rlR r => exact ordinary_updateReg rotRl r 8 s (fun _ _ => packF_low _ _ _ _) (by decide)
  case rlHl => exact ordinary_updateHl rotRl 16 s (fun _ _ => packF_low _ _ _ _) (by decide)
  case rrR r => exact ordinary_updateReg rotRr r 8 s (fun _ _ => packF_low _ _ _ _) (by decide)
  case rrHl => exact ordinary_updateHl rotRr 16 s (fun _ _ => packF_low _ _ _ _) (by decide)
  case slaR r => exact ordinary_updateReg rotSla r 8 s (fun _ _ => packF_low _ _ _ _) (by decide)
  case slaHl => exact ordinary_updateHl rotSla 16 s (fun _ _ => packF_low _ _ _ _) (by decide)
  case sraR r => exact ordinary_updateReg rotSra r 8 s (fun _ _ => packF_low _ _ _ _) (by decide)
  case sraHl => exact ordinary_updateHl rotSra 16 s (fun _ _ => packF_low _ _ _ _) (by decide)
  case swapR r => exact ordinary_updateReg rotSwap r 8 s (fun _ _ => packF_low _ _ _ _) (by decide)
  case swapHl => exact ordinary_updateHl rotSwap 16 s (fun _ _ => packF_low _ _ _ _) (by decide)
  case srlR r => exact ordinary_updateReg rotSrl r 8 s (fun _ _ => packF_low _ _ _ _) (by decide)
  case srlHl => exact ordinary_updateHl rotSrl 16 s (fun _ _ => packF_low _ _ _ _) (by decide)
  case daa => exact ordinary_regs s _ 4 (.inr (packF_low _ _ _ _)) (by decide)
  case cpl => exact ordinary_regs s _ 4 (.inr (packF_low _ _ _ _)) (by decide)
  case scf => exact ordinary_regs s _ 4 (.inr (packF_low _ _ _ _)) (by decide)
  case ccf => exact ordinary_regs s _ 4 (.inr (packF_low _ _ _ _)) (by decide)
  case rlca => exact ordinary_regs s _ 4 (.inr (packF_low _ _ _ _)) (by decide)
  case rrca => exact ordinary_regs s _ 4 (.inr (packF_low _ _ _ _)) (by decide)
  case rla => exact ordinary_regs s _ 4 (.inr (packF_low _ _ _ _)) (by decide)
  case rra => exact ordinary_regs s _ 4 (.inr (packF_low _ _ _ _)) (by decide)
  case bitBR b r => exact ordinary_regs s _ 8 (.inr (packF_low _ _ _ _)) (by decide)
  case resBR b r => exact ordinary_regs s _ 8 (.inl (Regs.set8_f _ _ _)) (by decide)
  case setBR b r => exact ordinary_regs s _ 8 (.inl (Regs.set8_f _ _ _)) (by decide)

end Sys2Proof.Machine
end

