-- ==== Sys2Proof/Laws/PerInstr.lean ====
section
/-! SUPPORT. Statements about every instruction, one lemma per constructor. -/

/-- The first byte of an instruction's encoding asks for exactly as many bytes as the encoding has (30_encoding.md
R159). -/
def Sys2Proof.Laws.FirstByteLength.Statement (i : Sys2Proof.Instr) : Prop :=
  i.wellFormed = true → ∃ op rest, Sys2Proof.encode i = op :: rest ∧ Sys2Proof.lengthOf op = rest.length + 1

namespace Sys2Proof.Laws.FirstByteLength

open Sys2Proof

/-- An instruction whose first byte is known. -/
theorem of_encode (i : Instr) (op : Byte) (rest : List Byte) (he : encode i = op :: rest)
    (hl : lengthOf op = rest.length + 1) : Statement i := fun _ => ⟨op, rest, he, hl⟩

theorem nop : Statement .nop := of_encode _ _ _ rfl rfl

theorem ldRrNn (p : RegPair) (nn : Word) : Statement (.ldRrNn p nn) := by
  cases p <;> exact of_encode _ _ _ rfl rfl

theorem ldBcA : Statement .ldBcA := of_encode _ _ _ rfl rfl

theorem incRr (p : RegPair) : Statement (.incRr p) := by
  cases p <;> exact of_encode _ _ _ rfl rfl

theorem incR (r : Reg8) : Statement (.incR r) := by
  cases r <;> exact of_encode _ _ _ rfl rfl

theorem incHl : Statement .incHl := of_encode _ _ _ rfl rfl

theorem decR (r : Reg8) : Statement (.decR r) := by
  cases r <;> exact of_encode _ _ _ rfl rfl

theorem decHl : Statement .decHl := of_encode _ _ _ rfl rfl

theorem ldRN (r : Reg8) (n : Byte) : Statement (.ldRN r n) := by
  cases r <;> exact of_encode _ _ _ rfl rfl

theorem ldHlN (n : Byte) : Statement (.ldHlN n) := of_encode _ _ _ rfl rfl

theorem rlca : Statement .rlca := of_encode _ _ _ rfl rfl

theorem ldNnSp (nn : Word) : Statement (.ldNnSp nn) := of_encode _ _ _ rfl rfl

theorem addHlRr (p : RegPair) : Statement (.addHlRr p) := by
  cases p <;> exact of_encode _ _ _ rfl rfl

theorem ldABc : Statement .ldABc := of_encode _ _ _ rfl rfl

theorem decRr (p : RegPair) : Statement (.decRr p) := by
  cases p <;> exact of_encode _ _ _ rfl rfl

theorem rrca : Statement .rrca := of_encode _ _ _ rfl rfl

theorem stop (t : Byte) : Statement (.stop t) := of_encode _ _ _ rfl rfl

theorem ldDeA : Statement .ldDeA := of_encode _ _ _ rfl rfl

theorem rla : Statement .rla := of_encode _ _ _ rfl rfl

theorem jrE (e : Byte) : Statement (.jrE e) := of_encode _ _ _ rfl rfl

theorem ldADe : Statement .ldADe := of_encode _ _ _ rfl rfl

theorem rra : Statement .rra := of_encode _ _ _ rfl rfl

theorem jrCcE (cc : Cond) (e : Byte) : Statement (.jrCcE cc e) := by
  cases cc <;> exact of_encode _ _ _ rfl rfl

theorem ldHliA : Statement .ldHliA := of_encode _ _ _ rfl rfl

theorem daa : Statement .daa := of_encode _ _ _ rfl rfl

theorem ldAHli : Statement .ldAHli := of_encode _ _ _ rfl rfl

theorem cpl : Statement .cpl := of_encode _ _ _ rfl rfl

theorem ldHldA : Statement .ldHldA := of_encode _ _ _ rfl rfl

theorem scf : Statement .scf := of_encode _ _ _ rfl rfl

theorem ldAHld : Statement .ldAHld := of_encode _ _ _ rfl rfl

theorem ccf : Statement .ccf := of_encode _ _ _ rfl rfl

theorem ldRR (dst : Reg8) (r : Reg8) : Statement (.ldRR dst r) := by
  cases dst <;> cases r <;> exact of_encode _ _ _ rfl rfl

theorem ldRHl (dst : Reg8) : Statement (.ldRHl dst) := by
  cases dst <;> exact of_encode _ _ _ rfl rfl

theorem ldHlR (r : Reg8) : Statement (.ldHlR r) := by
  cases r <;> exact of_encode _ _ _ rfl rfl

theorem halt : Statement .halt := of_encode _ _ _ rfl rfl

theorem addAR (r : Reg8) : Statement (.addAR r) := by
  cases r <;> exact of_encode _ _ _ rfl rfl

theorem addAHl : Statement .addAHl := of_encode _ _ _ rfl rfl

theorem addAN (n : Byte) : Statement (.addAN n) := of_encode _ _ _ rfl rfl

theorem adcAR (r : Reg8) : Statement (.adcAR r) := by
  cases r <;> exact of_encode _ _ _ rfl rfl

theorem adcAHl : Statement .adcAHl := of_encode _ _ _ rfl rfl

theorem adcAN (n : Byte) : Statement (.adcAN n) := of_encode _ _ _ rfl rfl

theorem subR (r : Reg8) : Statement (.subR r) := by
  cases r <;> exact of_encode _ _ _ rfl rfl

theorem subHl : Statement .subHl := of_encode _ _ _ rfl rfl

theorem subN (n : Byte) : Statement (.subN n) := of_encode _ _ _ rfl rfl

theorem sbcAR (r : Reg8) : Statement (.sbcAR r) := by
  cases r <;> exact of_encode _ _ _ rfl rfl

theorem sbcAHl : Statement .sbcAHl := of_encode _ _ _ rfl rfl

theorem sbcAN (n : Byte) : Statement (.sbcAN n) := of_encode _ _ _ rfl rfl

theorem andR (r : Reg8) : Statement (.andR r) := by
  cases r <;> exact of_encode _ _ _ rfl rfl

theorem andHl : Statement .andHl := of_encode _ _ _ rfl rfl

theorem andN (n : Byte) : Statement (.andN n) := of_encode _ _ _ rfl rfl

theorem xorR (r : Reg8) : Statement (.xorR r) := by
  cases r <;> exact of_encode _ _ _ rfl rfl

theorem xorHl : Statement .xorHl := of_encode _ _ _ rfl rfl

theorem xorN (n : Byte) : Statement (.xorN n) := of_encode _ _ _ rfl rfl

theorem orR (r : Reg8) : Statement (.orR r) := by
  cases r <;> exact of_encode _ _ _ rfl rfl

theorem orHl : Statement .orHl := of_encode _ _ _ rfl rfl

theorem orN (n : Byte) : Statement (.orN n) := of_encode _ _ _ rfl rfl

theorem cpR (r : Reg8) : Statement (.cpR r) := by
  cases r <;> exact of_encode _ _ _ rfl rfl

theorem cpHl : Statement .cpHl := of_encode _ _ _ rfl rfl

theorem cpN (n : Byte) : Statement (.cpN n) := of_encode _ _ _ rfl rfl

theorem retCc (cc : Cond) : Statement (.retCc cc) := by
  cases cc <;> exact of_encode _ _ _ rfl rfl

theorem popRr (p : StackPair) : Statement (.popRr p) := by
  cases p <;> exact of_encode _ _ _ rfl rfl

theorem jpCcNn (cc : Cond) (nn : Word) : Statement (.jpCcNn cc nn) := by
  cases cc <;> exact of_encode _ _ _ rfl rfl

theorem jpNn (nn : Word) : Statement (.jpNn nn) := of_encode _ _ _ rfl rfl

theorem callCcNn (cc : Cond) (nn : Word) : Statement (.callCcNn cc nn) := by
  cases cc <;> exact of_encode _ _ _ rfl rfl

theorem pushRr (p : StackPair) : Statement (.pushRr p) := by
  cases p <;> exact of_encode _ _ _ rfl rfl

theorem rstT (t : Byte) : Statement (.rstT t) := by
  intro hw
  have targets : ∀ t : Byte, rstTargetOk t = true → lengthOf (0xC7 ||| t) = 1 := by decide
  exact ⟨0xC7 ||| t, [], rfl, targets t hw⟩

theorem ret : Statement .ret := of_encode _ _ _ rfl rfl

theorem callNn (nn : Word) : Statement (.callNn nn) := of_encode _ _ _ rfl rfl

theorem reti : Statement .reti := of_encode _ _ _ rfl rfl

theorem ldhNA (n : Byte) : Statement (.ldhNA n) := of_encode _ _ _ rfl rfl

theorem ldCA : Statement .ldCA := of_encode _ _ _ rfl rfl

theorem addSpE (e : Byte) : Statement (.addSpE e) := of_encode _ _ _ rfl rfl

theorem jpHl : Statement .jpHl := of_encode _ _ _ rfl rfl

theorem ldNnA (nn : Word) : Statement (.ldNnA nn) := of_encode _ _ _ rfl rfl

theorem ldhAN (n : Byte) : Statement (.ldhAN n) := of_encode _ _ _ rfl rfl

theorem ldAC : Statement .ldAC := of_encode _ _ _ rfl rfl

theorem di : Statement .di := of_encode _ _ _ rfl rfl

theorem ldHlSpE (e : Byte) : Statement (.ldHlSpE e) := of_encode _ _ _ rfl rfl

theorem ldSpHl : Statement .ldSpHl := of_encode _ _ _ rfl rfl

theorem ldANn (nn : Word) : Statement (.ldANn nn) := of_encode _ _ _ rfl rfl

theorem ei : Statement .ei := of_encode _ _ _ rfl rfl

theorem illegalD3 : Statement .illegalD3 := of_encode _ _ _ rfl rfl

theorem illegalDB : Statement .illegalDB := of_encode _ _ _ rfl rfl

theorem illegalDD : Statement .illegalDD := of_encode _ _ _ rfl rfl

theorem illegalE3 : Statement .illegalE3 := of_encode _ _ _ rfl rfl

theorem illegalE4 : Statement .illegalE4 := of_encode _ _ _ rfl rfl

theorem illegalEB : Statement .illegalEB := of_encode _ _ _ rfl rfl

theorem illegalEC : Statement .illegalEC := of_encode _ _ _ rfl rfl

theorem illegalED : Statement .illegalED := of_encode _ _ _ rfl rfl

theorem illegalF4 : Statement .illegalF4 := of_encode _ _ _ rfl rfl

theorem illegalFC : Statement .illegalFC := of_encode _ _ _ rfl rfl

theorem illegalFD : Statement .illegalFD := of_encode _ _ _ rfl rfl

theorem rlcR (r : Reg8) : Statement (.rlcR r) := of_encode _ _ _ rfl rfl

theorem rlcHl : Statement .rlcHl := of_encode _ _ _ rfl rfl

theorem rrcR (r : Reg8) : Statement (.rrcR r) := of_encode _ _ _ rfl rfl

theorem rrcHl : Statement .rrcHl := of_encode _ _ _ rfl rfl

theorem rlR (r : Reg8) : Statement (.rlR r) := of_encode _ _ _ rfl rfl

theorem rlHl : Statement .rlHl := of_encode _ _ _ rfl rfl

theorem rrR (r : Reg8) : Statement (.rrR r) := of_encode _ _ _ rfl rfl

theorem rrHl : Statement .rrHl := of_encode _ _ _ rfl rfl

theorem slaR (r : Reg8) : Statement (.slaR r) := of_encode _ _ _ rfl rfl

theorem slaHl : Statement .slaHl := of_encode _ _ _ rfl rfl

theorem sraR (r : Reg8) : Statement (.sraR r) := of_encode _ _ _ rfl rfl

theorem sraHl : Statement .sraHl := of_encode _ _ _ rfl rfl

theorem swapR (r : Reg8) : Statement (.swapR r) := of_encode _ _ _ rfl rfl

theorem swapHl : Statement .swapHl := of_encode _ _ _ rfl rfl

theorem srlR (r : Reg8) : Statement (.srlR r) := of_encode _ _ _ rfl rfl

theorem srlHl : Statement .srlHl := of_encode _ _ _ rfl rfl

theorem bitBR (b : BitVec 3) (r : Reg8) : Statement (.bitBR b r) := of_encode _ _ _ rfl rfl

theorem bitBHl (b : BitVec 3) : Statement (.bitBHl b) := of_encode _ _ _ rfl rfl

theorem resBR (b : BitVec 3) (r : Reg8) : Statement (.resBR b r) := of_encode _ _ _ rfl rfl

theorem resBHl (b : BitVec 3) : Statement (.resBHl b) := of_encode _ _ _ rfl rfl

theorem setBR (b : BitVec 3) (r : Reg8) : Statement (.setBR b r) := of_encode _ _ _ rfl rfl

theorem setBHl (b : BitVec 3) : Statement (.setBHl b) := of_encode _ _ _ rfl rfl
end Sys2Proof.Laws.FirstByteLength
end

