-- ==== Sys2Proof/Laws/Step.lean ====
section
/-! SUPPORT. Fetching, taking an interrupt and the three cases of a step, each with everything it can do. -/

namespace Sys2Proof.Machine

/-- Two successive runs of effects. -/
theorem Effects.trans {s t u : State} (h : Effects s t) (h2 : Effects t u) : Effects s u := by
  induction h2 with
  | none => exact h
  | regs g n _ hf ih => exact ih.regs g n hf
  | asks a _ ih => exact ih.asks a
  | stores a v _ hw ih => exact ih.stores a v hw

/-- What effects never touch. -/
theorem Effects.frame {s t : State} (h : Effects s t) :
    t.ime = s.ime ∧ t.imePending = s.imePending ∧ t.runState = s.runState := by
  induction h with
  | none => exact ⟨rfl, rfl, rfl⟩
  | regs g n _ _ ih => exact ih
  | asks a _ ih => simpa using ih
  | stores a v _ hw ih =>
    obtain ⟨-, h1, h2, h3, -⟩ := write_frame _ _ _ _ hw
    exact ⟨h1.trans ih.1, h2.trans ih.2.1, h3.trans ih.2.2⟩

/-- `Fetch8` (00_scope.md R10): one read at `PC`, and `PC` one further. -/
theorem runs_fetch8 {s t : State} (h : Effects s t) :
    Runs s (fun p : Byte × State => readByte t.regs.pc t = .next p.1
      ∧ p.2 = (afterRead t.regs.pc t).setPc (t.regs.pc + 1) ∧ Effects s p.2) (fetch8 t) :=
  (runs_busRead _ h).chain fun p hp => ⟨hp.1, by rw [hp.2.1], hp.2.2.setPc _⟩

theorem runs_fetchBytes {s t : State} (n : Nat) (h : Effects s t) :
    Runs s (fun q : List Byte × State => Effects s q.2) (fetchBytes n t) := by
  induction n generalizing t with
  | zero => exact h
  | succ n ih => exact (runs_fetch8 h).chain fun p hp => (ih hp.2.2).chain fun q hq => hq

/-- Fetching an instruction: reads only; the first byte is the one at `PC`, and it decides the instruction with two
others. -/
theorem runs_fetchInstr (s : State) :
    Runs s (fun p : Instr × State => Effects s p.2
      ∧ ∃ op b1 b2, readByte s.regs.pc s = .next op ∧ p.1 = assemble op b1 b2) (fetchInstr s) :=
  (runs_fetch8 (Effects.none s)).chain fun p hp => (runs_fetchBytes _ hp.2.2).chain fun q hq =>
    ⟨hq, p.1, q.1.getD 0 0, q.1.getD 1 0, hp.1, rfl⟩

/-- Fetching one byte that is readable. -/
theorem fetch8_of_readByte (s : State) (v : Byte) (h : readByte s.regs.pc s = .next v) :
    fetch8 s = .next (v, (afterRead s.regs.pc s).setPc (s.regs.pc + 1)) := by
  simp [fetch8, read_of_readByte _ _ _ h]

/-- Taking an interrupt (60_exceptions.md R331): the acknowledgement, then a push and the jump to the vector. -/
theorem runs_takeInterrupt (s : State) :
    Runs (acknowledge (lowestBit (pending s)) s)
      (fun t => Effects (acknowledge (lowestBit (pending s)) s) t ∧ t.cycles = 20
        ∧ t.regs.pc = vector (lowestBit (pending s))) (takeInterrupt s) :=
  (runs_push16 _ (Effects.none _)).chain fun _ h => ⟨(h.setPc _).took 20, rfl, rfl⟩

/-- The promotion of a pending enable (60_exceptions.md R332). -/
theorem promote_eq (began : Bool) (s : State) :
    promote began s = { s with ime := s.ime || (began && s.imePending), imePending := s.imePending && !began } := by
  obtain ⟨regs, ime, imePending⟩ := s
  cases began <;> cases imePending <;> simp [promote]

/-- One call of `step()` (60_exceptions.md R330): its three cases. -/
theorem step_cases (s : State) :
    (idles s = true ∧ step s = .next (s.took 4))
      ∨ (idles s = false ∧ dispatches s = true ∧ step s = takeInterrupt (wake s))
      ∨ (runsInstruction s = true ∧ step s = instructionStep (wake s)) := by
  unfold step runsInstruction
  cases idles s <;> cases dispatches s <;> simp

end Sys2Proof.Machine
end

