-- ==== Sys2Proof/Tests/Slice0.lean ====
section
/-! SUPPORT. The smoke test of `WellFormed`, a word for every constructor, one step per instruction, and the witnesses
of the statements. The expected results are those of spec/95_test_vectors.md, or read off the rule the comment names. -/

namespace Sys2Proof.Tests

open Machine

/-- The state after reset with these registers, these bytes at `0x0100`, and these bytes in memory. -/
def boot (bytes : List Byte) (g : Regs) (mem : List (Word × Byte)) : State :=
  mem.foldl (fun s c => pokeByte c.1 c.2 s) (pokeBytes 0x0100 bytes { State.reset with regs := g })

/-- What one step leaves, when it completes. -/
def probe {α : Type} (f : State → α) (s : State) : Option α :=
  match step s with
  | .next t => some (f t)
  | _ => none

/-- The fault one step stops on. -/
def stops (s : State) : Option Fault :=
  match step s with
  | .fault e => some e
  | _ => none

/-- The instruction that bytes decode to, all of them consumed. -/
def decoded (bytes : List Byte) : Option Instr :=
  match decode bytes with
  | .ok (i, []) => some i
  | _ => none

/-- Every word of a list decodes to the instruction beside it. -/
def decodesAll (l : List (List Byte × Instr)) : Bool := l.all fun p => decide (decoded p.1 = some p.2)

/-- A Bank-Switching cartridge of two ROM banks and four RAM banks, RAM disabled, with `LD (HL),B` at `0x0100` and `HL`
in the RAM window. -/
def ramOff : State :=
  { boot [0x70] { Regs.reset with h := 0xA0, l := 0x10 } [] with
    cart := { Cartridge.blank with
      variant := .bankSwitching, rom := ⟨0x8000, [(0x0100, 0x70)]⟩, ramBankCount := 4, ram := ⟨0x8000, []⟩ } }

/-- The same in RAM-banking mode, with RAM enabled and its bank 1 selected. -/
def ramOn : State := { ramOff with cart := { ramOff.cart with ramEnable := true, bankMode := .ramBanking, ramBank := 1 } }

/-- A Bank-Switching cartridge with no RAM banks whose RAM is enabled, with `LD A,(HL)` at `0x0100`, `HL` and `SP` in the
RAM window. -/
def missingRam : State :=
  { State.reset with
    regs := { Regs.reset with h := 0xA0, l := 0x00, sp := 0xA002 }
    cart := { Cartridge.blank with variant := .bankSwitching, rom := ⟨0x8000, [(0x0100, 0x7E)]⟩, ramEnable := true } }

/-- `IME` set, every request enabled, these requests made, and the stack below `0xFF00`. -/
def interrupted (requests : Byte) : State :=
  { boot [] { Regs.reset with sp := 0xFF00 } [(0xFF0F, requests), (0xFFFF, 0xFF)] with ime := true }

/-- An image of 32 KiB with these three header bytes. -/
def image (type romSize ramSize : Byte) : Buffer :=
  ⟨0x8000, consCell .rom 0x0147 type (consCell .rom 0x0148 romSize (consCell .rom 0x0149 ramSize []))⟩

/-- The default tables accept the image and the save. -/
def loads (raw : Buffer) (save : Option Buffer) : Bool :=
  match load Params.spec raw save with
  | .next _ => true
  | _ => false

/-! ### Well-formedness: a target of `RST` that no word encodes (45_control_flow.md R291) -/

theorem test_ill_formed_rst_low_bits : (Instr.rstT 0x04).wellFormed = false := by decide

theorem test_ill_formed_rst_high_bits : (Instr.rstT 0x40).wellFormed = false := by decide

/-! ### Decoding: a word of every constructor, written from the encodings of the rules -/

/-- Loads of one byte (40_load8.md). -/
theorem test_decode_load8 :
    decodesAll [([0x41], .ldRR .b .c), ([0x7F], .ldRR .a .a), ([0x6C], .ldRR .l .h), ([0x06, 0x9C], .ldRN .b 0x9C),
        ([0x3E, 0x00], .ldRN .a 0x00), ([0x46], .ldRHl .b), ([0x7E], .ldRHl .a), ([0x70], .ldHlR .b),
        ([0x77], .ldHlR .a), ([0x36, 0xAB], .ldHlN 0xAB)] = true
    ∧ decodesAll [([0x0A], .ldABc), ([0x1A], .ldADe), ([0x02], .ldBcA), ([0x12], .ldDeA),
        ([0xFA, 0x34, 0xC2], .ldANn 0xC234), ([0xEA, 0x00, 0xC3], .ldNnA 0xC300), ([0xF0, 0x80], .ldhAN 0x80),
        ([0xE0, 0x47], .ldhNA 0x47), ([0xF2], .ldAC), ([0xE2], .ldCA), ([0x22], .ldHliA), ([0x2A], .ldAHli),
        ([0x32], .ldHldA), ([0x3A], .ldAHld)] = true := by decide

/-- Loads of two bytes and the stack (41_load16.md). -/
theorem test_decode_load16 :
    decodesAll [([0x01, 0x34, 0x12], .ldRrNn .bc 0x1234), ([0x31, 0x00, 0xD0], .ldRrNn .sp 0xD000),
        ([0x08, 0x00, 0xC1], .ldNnSp 0xC100), ([0xF9], .ldSpHl), ([0xF8, 0xFE], .ldHlSpE 0xFE),
        ([0xE5], .pushRr .hl), ([0xF5], .pushRr .af), ([0xC1], .popRr .bc), ([0xF1], .popRr .af)] = true := by decide

/-- 8-bit arithmetic and logic (42_alu8.md). -/
theorem test_decode_alu8 :
    decodesAll [([0x85], .addAR .l), ([0x86], .addAHl), ([0xC6, 0xFF], .addAN 0xFF), ([0x88], .adcAR .b),
        ([0x8E], .adcAHl), ([0xCE, 0x0F], .adcAN 0x0F), ([0x90], .subR .b), ([0x96], .subHl),
        ([0xD6, 0x0F], .subN 0x0F), ([0x9F], .sbcAR .a), ([0x9E], .sbcAHl), ([0xDE, 0x01], .sbcAN 0x01)] = true
    ∧ decodesAll [([0xA7], .andR .a), ([0xA6], .andHl), ([0xE6, 0x00], .andN 0x00), ([0xAF], .xorR .a), ([0xAE], .xorHl),
        ([0xEE, 0x0F], .xorN 0x0F), ([0xB0], .orR .b), ([0xB6], .orHl), ([0xF6, 0x80], .orN 0x80),
        ([0xBF], .cpR .a), ([0xBE], .cpHl), ([0xFE, 0x3C], .cpN 0x3C)] = true
    ∧ decodesAll [([0x2C], .incR .l), ([0x34], .incHl), ([0x3D], .decR .a), ([0x35], .decHl), ([0x27], .daa),
        ([0x2F], .cpl), ([0x37], .scf), ([0x3F], .ccf)] = true := by decide

/-- 16-bit arithmetic (43_alu16.md). -/
theorem test_decode_alu16 :
    decodesAll [([0x09], .addHlRr .bc), ([0x39], .addHlRr .sp), ([0x03], .incRr .bc), ([0x33], .incRr .sp),
        ([0x1B], .decRr .de), ([0x2B], .decRr .hl), ([0xE8, 0x02], .addSpE 0x02)] = true := by decide

/-- Rotates and shifts (44_rotate_shift_bit.md). -/
theorem test_decode_rotate :
    decodesAll [([0x07], .rlca), ([0x0F], .rrca), ([0x17], .rla), ([0x1F], .rra), ([0xCB, 0x00], .rlcR .b),
        ([0xCB, 0x06], .rlcHl), ([0xCB, 0x09], .rrcR .c), ([0xCB, 0x0E], .rrcHl), ([0xCB, 0x12], .rlR .d),
        ([0xCB, 0x16], .rlHl), ([0xCB, 0x1B], .rrR .e), ([0xCB, 0x1E], .rrHl)] = true
    ∧ decodesAll [([0xCB, 0x24], .slaR .h), ([0xCB, 0x26], .slaHl), ([0xCB, 0x2F], .sraR .a), ([0xCB, 0x2E], .sraHl),
        ([0xCB, 0x37], .swapR .a), ([0xCB, 0x36], .swapHl), ([0xCB, 0x38], .srlR .b), ([0xCB, 0x3E], .srlHl)] = true := by decide

/-- Bit operations (44_rotate_shift_bit.md). -/
theorem test_decode_bit :
    decodesAll [([0xCB, 0x7C], .bitBR 7 .h), ([0xCB, 0x65], .bitBR 4 .l), ([0xCB, 0x46], .bitBHl 0),
        ([0xCB, 0x87], .resBR 0 .a), ([0xCB, 0x9E], .resBHl 3), ([0xCB, 0xFF], .setBR 7 .a),
        ([0xCB, 0xFE], .setBHl 7), ([0xCB, 0xFD], .setBR 7 .l)] = true := by decide

/-- Control transfer (45_control_flow.md). -/
theorem test_decode_control :
    decodesAll [([0xC3, 0x50, 0x01], .jpNn 0x0150), ([0xC2, 0x00, 0x80], .jpCcNn .nz 0x8000),
        ([0xDA, 0x00, 0x40], .jpCcNn .c 0x4000), ([0xE9], .jpHl), ([0x18, 0xFE], .jrE 0xFE),
        ([0x20, 0xFE], .jrCcE .nz 0xFE), ([0x38, 0x05], .jrCcE .c 0x05)] = true
    ∧ decodesAll [([0xCD, 0x34, 0x12], .callNn 0x1234), ([0xCC, 0x00, 0x02], .callCcNn .z 0x0200), ([0xC9], .ret),
        ([0xC8], .retCc .z), ([0xD9], .reti), ([0xC7], .rstT 0x00), ([0xEF], .rstT 0x28), ([0xFF], .rstT 0x38)] = true := by decide

/-- Processor control (46_cpu_control.md) and the undefined bytes (30_encoding.md R157). -/
theorem test_decode_processor :
    decodesAll [([0x00], .nop), ([0x76], .halt), ([0x10, 0x00], .stop 0x00), ([0x10, 0x76], .stop 0x76), ([0xF3], .di),
        ([0xFB], .ei)] = true
    ∧ decodesAll [([0xD3], .illegalD3), ([0xDB], .illegalDB), ([0xDD], .illegalDD), ([0xE3], .illegalE3),
        ([0xE4], .illegalE4), ([0xEB], .illegalEB), ([0xEC], .illegalEC), ([0xED], .illegalED),
        ([0xF4], .illegalF4), ([0xFC], .illegalFC), ([0xFD], .illegalFD)] = true := by decide

/-! ### One step -/

/-- Words as the opcode table numbers them (30_encoding.md R162): the prefix is the high byte of a 16-bit row. -/
theorem test_decode_table_words :
    decodeTableWord 8 0x78 = some (.ldRR .a .b) ∧ decodeTableWord 16 0xCB37 = some (.swapR .a)
      ∧ decodeTableWord 16 0xCB7E = some (.bitBHl 7) ∧ decodeTableWord 8 0xC3 = some (.jpNn 0x0000)
      ∧ decodeTableWord 8 0xFD = some .illegalFD := by decide

/-- `withFetchWord` puts the word where the next step fetches it, also from a halted engine with a dispatch due. -/
theorem test_withFetchWord :
    probe (fun t => (t.regs.a, t.regs.pc)) (State.reset.withFetchWord 8 0x3C) = some (0x02, 0x0101)
      ∧ probe (fun t => (t.regs.a, t.regs.pc)) (State.reset.withFetchWord 16 0xCB37) = some (0x10, 0x0102)
      ∧ probe (fun t => t.regs.a) ((interrupted 0x1F).withFetchWord 8 0x3C) = some 0x02 := by decide

/-- Power-on with the blank cartridge is the state after reset (log 1). -/
theorem test_powerOn_blank : powerOn Params.spec Cartridge.blank = State.reset := by decide +kernel

/-- A defined second byte after the prefix, and an undefined byte as data (95_test_vectors.md F13, F14). -/
theorem test_undefined_values_as_data :
    probe (fun t => (t.regs.l, t.cycles)) (boot [0xCB, 0xFD] Regs.reset []) = some (0xCD, 8)
      ∧ probe (fun t => (t.regs.a, t.cycles)) (boot [0x3E, 0xD3] Regs.reset []) = some (0xD3, 8) := by decide

/-- Fetch wraps at the top of the address space (95_test_vectors.md 2.6, last paragraph). -/
theorem test_fetch_wraps :
    probe (fun t => (t.regs.pc, t.cycles)) (boot [] { Regs.reset with pc := 0xFFFE } [(0xFFFE, 0x18), (0xFFFF, 0x01)])
      = some (0x0001, 12) := by decide

/-- `EI` leaves `IME` clear and a request pending; the step after it raises `IME` (95_test_vectors.md C11). -/
theorem test_ei :
    probe (fun t => (t.ime, t.imePending, t.cycles)) (boot [0xFB] Regs.reset []) = some (false, true, 4)
      ∧ probe (fun t => (t.ime, t.imePending)) { boot [0x00] Regs.reset [] with imePending := true } = some (true, false) := by
  decide

/-- Taking the interrupt of bit 0 (95_test_vectors.md 2.7, nested interrupts, step 1). -/
theorem test_dispatch :
    probe (fun t => (t.regs.pc, t.regs.sp, flatByte 0xCFFF t, flatByte 0xCFFE t, ifReg t, t.cycles))
        { boot [0xFB] { Regs.reset with sp := 0xD000 } [(0xFF0F, 0x01), (0xFFFF, 0x03)] with ime := true }
      = some (0x0040, 0xCFFE, 0x01, 0x00, 0x00, 20) := by decide

/-! Vectors of 95_test_vectors.md 2.1; the name ends in the row. -/

theorem test_ldRR_L3 :
    probe (fun t => (t.regs.f, t.regs.l, t.regs.pc, t.cycles)) (boot [0x6C] { Regs.reset with h := 0xC2, l := 0x34 } [])
      = some (0xB0, 0xC2, 0x0101, 4) := by decide

theorem test_ldRN_L4 :
    probe (fun t => (t.regs.f, t.regs.b, t.regs.pc, t.cycles)) (boot [0x06, 0x9C] Regs.reset [])
      = some (0xB0, 0x9C, 0x0102, 8) := by decide

theorem test_ldRHl_L7 :
    probe (fun t => (t.regs.f, t.regs.h, t.regs.pc, t.cycles))
        (boot [0x66] { Regs.reset with h := 0xC1, l := 0x00 } [(0xC100, 0x5E)])
      = some (0xB0, 0x5E, 0x0101, 8) := by decide

theorem test_ldHlR_L9 :
    probe (fun t => (t.regs.f, t.regs.pc, flatByte 0xC234 t, t.cycles))
        (boot [0x74] { Regs.reset with h := 0xC2, l := 0x34 } [])
      = some (0xB0, 0x0101, 0xC2, 8) := by decide

theorem test_ldHlN_L10 :
    probe (fun t => (t.regs.f, t.regs.pc, flatByte 0x8000 t, t.cycles))
        (boot [0x36, 0xAB] { Regs.reset with h := 0x80, l := 0x00 } [])
      = some (0xB0, 0x0102, 0xAB, 12) := by decide

theorem test_ldABc_L12 :
    probe (fun t => (t.regs.a, t.regs.f, t.regs.pc, t.cycles))
        (boot [0x0A] { Regs.reset with b := 0xC0, c := 0x10 } [(0xC010, 0x99)])
      = some (0x99, 0xB0, 0x0101, 8) := by decide

theorem test_ldADe_L13 :
    probe (fun t => (t.regs.a, t.regs.f, t.regs.pc, t.cycles)) (boot [0x1A] { Regs.reset with d := 0x01, e := 0x47 } [])
      = some (0x00, 0xB0, 0x0101, 8) := by decide

theorem test_ldBcA_L14 :
    probe (fun t => (t.regs.f, t.regs.pc, flatByte 0xFE00 t, t.cycles))
        (boot [0x02] { Regs.reset with b := 0xFE, c := 0x00, a := 0x12 } [])
      = some (0xB0, 0x0101, 0x12, 8) := by decide

theorem test_ldDeA_L15 :
    probe (fun t => (t.regs.f, t.regs.pc, flatByte 0xFFFF t, t.cycles))
        (boot [0x12] { Regs.reset with d := 0xFF, e := 0xFF, a := 0x1F } [])
      = some (0xB0, 0x0101, 0x1F, 8) := by decide

theorem test_ldANn_L16 :
    probe (fun t => (t.regs.a, t.regs.f, t.regs.pc, t.cycles)) (boot [0xFA, 0x34, 0xC2] Regs.reset [(0xC234, 0x6D)])
      = some (0x6D, 0xB0, 0x0103, 16) := by decide

theorem test_ldNnA_L17 :
    probe (fun t => (t.regs.f, t.regs.pc, flatByte 0xC300 t, t.cycles))
        (boot [0xEA, 0x00, 0xC3] { Regs.reset with a := 0xEE } [])
      = some (0xB0, 0x0103, 0xEE, 16) := by decide

theorem test_ldhAN_L18 :
    probe (fun t => (t.regs.a, t.regs.f, t.regs.pc, t.cycles)) (boot [0xF0, 0x80] Regs.reset [(0xFF80, 0x3C)])
      = some (0x3C, 0xB0, 0x0102, 12) := by decide

theorem test_ldhNA_L22 :
    probe (fun t => (t.regs.f, t.regs.pc, flatByte 0xFF0F t, t.cycles)) (boot [0xE0, 0x0F] { Regs.reset with a := 0xFF } [])
      = some (0xB0, 0x0102, 0xFF, 12) := by decide

theorem test_ldAC_L23 :
    probe (fun t => (t.regs.a, t.regs.f, t.regs.pc, t.cycles)) (boot [0xF2] { Regs.reset with c := 0x81 } [(0xFF81, 0x27)])
      = some (0x27, 0xB0, 0x0101, 8) := by decide

theorem test_ldCA_L24 :
    probe (fun t => (t.regs.f, t.regs.pc, flatByte 0xFFFF t, t.cycles))
        (boot [0xE2] { Regs.reset with c := 0xFF, a := 0x05 } [])
      = some (0xB0, 0x0101, 0x05, 8) := by decide

theorem test_ldHliA_L26 :
    probe (fun t => (t.regs.f, t.regs.h, t.regs.l, t.regs.pc, flatByte 0xFFFF t, t.cycles))
        (boot [0x22] { Regs.reset with h := 0xFF, l := 0xFF, a := 0x01 } [])
      = some (0xB0, 0x00, 0x00, 0x0101, 0x01, 8) := by decide

theorem test_ldAHli_L27 :
    probe (fun t => (t.regs.a, t.regs.f, t.regs.l, t.regs.pc, t.cycles))
        (boot [0x2A] { Regs.reset with h := 0xC0, l := 0x00 } [(0xC000, 0x33)])
      = some (0x33, 0xB0, 0x01, 0x0101, 8) := by decide

theorem test_ldHldA_L28 :
    probe (fun t => (t.regs.f, t.regs.h, t.regs.l, t.regs.pc, t.cycles))
        (boot [0x32] { Regs.reset with h := 0x00, l := 0x00, a := 0x0A } [])
      = some (0xB0, 0xFF, 0xFF, 0x0101, 8) := by decide

theorem test_ldAHld_L29 :
    probe (fun t => (t.regs.a, t.regs.f, t.regs.l, t.regs.pc, t.cycles))
        (boot [0x3A] { Regs.reset with h := 0xC0, l := 0x01 } [(0xC001, 0x44)])
      = some (0x44, 0xB0, 0x00, 0x0101, 8) := by decide

/-! Vectors of 95_test_vectors.md 2.2; the name ends in the row. -/

theorem test_ldRrNn_W1 :
    probe (fun t => (t.regs.f, t.regs.b, t.regs.c, t.regs.pc, t.cycles)) (boot [0x01, 0x34, 0x12] Regs.reset [])
      = some (0xB0, 0x12, 0x34, 0x0103, 12) := by decide

theorem test_ldRrNn_sp_W3 :
    probe (fun t => (t.regs.f, t.regs.sp, t.regs.pc, t.cycles)) (boot [0x31, 0x00, 0xD0] Regs.reset [])
      = some (0xB0, 0xD000, 0x0103, 12) := by decide

theorem test_ldNnSp_W4 :
    probe (fun t => (t.regs.f, t.regs.pc, flatByte 0xC100 t, flatByte 0xC101 t, t.cycles))
        (boot [0x08, 0x00, 0xC1] { Regs.reset with sp := 0xABCD } [])
      = some (0xB0, 0x0103, 0xCD, 0xAB, 20) := by decide

theorem test_ldSpHl_W6 :
    probe (fun t => (t.regs.f, t.regs.sp, t.regs.pc, t.cycles)) (boot [0xF9] { Regs.reset with h := 0xC8, l := 0x00 } [])
      = some (0xB0, 0xC800, 0x0101, 8) := by decide

theorem test_ldHlSpE_W8 :
    probe (fun t => (t.regs.f, t.regs.h, t.regs.l, t.regs.pc, t.cycles))
        (boot [0xF8, 0xFE] { Regs.reset with sp := 0x0001 } [])
      = some (0x00, 0xFF, 0xFF, 0x0102, 12) := by decide

theorem test_ldHlSpE_carries_W9 :
    probe (fun t => (t.regs.f, t.regs.l, t.regs.pc, t.cycles)) (boot [0xF8, 0x01] { Regs.reset with sp := 0x00FF } [])
      = some (0x30, 0x00, 0x0102, 12) := by decide

theorem test_pushRr_W11 :
    probe (fun t => (t.regs.f, t.regs.sp, t.regs.pc, flatByte 0xCFFF t, flatByte 0xCFFE t, t.cycles))
        (boot [0xC5] { Regs.reset with b := 0x12, c := 0x34, sp := 0xD000 } [])
      = some (0xB0, 0xCFFE, 0x0101, 0x12, 0x34, 16) := by decide

theorem test_pushRr_af_W12 :
    probe (fun t => (t.regs.f, t.regs.sp, t.regs.pc, flatByte 0xC001 t, flatByte 0xC000 t, t.cycles))
        (boot [0xF5] { Regs.reset with a := 0x9A, f := 0x50, sp := 0xC002 } [])
      = some (0x50, 0xC000, 0x0101, 0x9A, 0x50, 16) := by decide

theorem test_popRr_af_W15 :
    probe (fun t => (t.regs.a, t.regs.f, t.regs.sp, t.regs.pc, t.cycles))
        (boot [0xF1] { Regs.reset with sp := 0xC000 } [(0xC000, 0xFF), (0xC001, 0x12)])
      = some (0x12, 0xF0, 0xC002, 0x0101, 12) := by decide

theorem test_popRr_W17 :
    probe (fun t => (t.regs.f, t.regs.h, t.regs.l, t.regs.sp, t.regs.pc, t.cycles))
        (boot [0xE1] { Regs.reset with sp := 0xFFFF } [(0xFFFF, 0x34)])
      = some (0xB0, 0x00, 0x34, 0x0001, 0x0101, 12) := by decide

/-! Vectors of 95_test_vectors.md 2.3; the name ends in the row. -/

theorem test_addAR_A1 :
    probe (fun t => (t.regs.a, t.regs.f, t.regs.pc, t.cycles))
        (boot [0x80] { Regs.reset with a := 0x3A, b := 0xC6, f := 0x00 } [])
      = some (0x00, 0xB0, 0x0101, 4) := by decide

theorem test_addAN_A4 :
    probe (fun t => (t.regs.a, t.regs.f, t.regs.pc, t.cycles))
        (boot [0xC6, 0xFF] { Regs.reset with a := 0x01, f := 0x00 } [])
      = some (0x00, 0xB0, 0x0102, 8) := by decide

theorem test_addAHl_A5 :
    probe (fun t => (t.regs.a, t.regs.f, t.regs.pc, t.cycles))
        (boot [0x86] { Regs.reset with a := 0x12, h := 0xC0, l := 0x00, f := 0x00 } [(0xC000, 0x34)])
      = some (0x46, 0x00, 0x0101, 8) := by decide

theorem test_adcAR_A7 :
    probe (fun t => (t.regs.a, t.regs.f, t.regs.pc, t.cycles))
        (boot [0x88] { Regs.reset with a := 0xFF, b := 0x00, f := 0x10 } [])
      = some (0x00, 0xB0, 0x0101, 4) := by decide

theorem test_adcAN_A8 :
    probe (fun t => (t.regs.a, t.regs.f, t.regs.pc, t.cycles))
        (boot [0xCE, 0x0F] { Regs.reset with a := 0x00, f := 0x10 } [])
      = some (0x10, 0x20, 0x0102, 8) := by decide

theorem test_subR_A10 :
    probe (fun t => (t.regs.a, t.regs.f, t.regs.pc, t.cycles))
        (boot [0x90] { Regs.reset with a := 0x00, b := 0x01, f := 0x00 } [])
      = some (0xFF, 0x70, 0x0101, 4) := by decide

theorem test_subN_A11 :
    probe (fun t => (t.regs.a, t.regs.f, t.regs.pc, t.cycles))
        (boot [0xD6, 0x0F] { Regs.reset with a := 0x3E, f := 0x00 } [])
      = some (0x2F, 0x60, 0x0102, 8) := by decide

theorem test_sbcAR_A14 :
    probe (fun t => (t.regs.f, t.regs.pc, t.cycles)) (boot [0x98] { Regs.reset with a := 0x00, b := 0xFF, f := 0x10 } [])
      = some (0xF0, 0x0101, 4) := by decide

theorem test_sbcAN_A15 :
    probe (fun t => (t.regs.a, t.regs.f, t.regs.pc, t.cycles))
        (boot [0xDE, 0x0F] { Regs.reset with a := 0x10, f := 0x10 } [])
      = some (0x00, 0xE0, 0x0102, 8) := by decide

theorem test_andR_A17 :
    probe (fun t => (t.regs.a, t.regs.f, t.regs.pc, t.cycles))
        (boot [0xA0] { Regs.reset with a := 0x5A, b := 0x3F, f := 0x50 } [])
      = some (0x1A, 0x20, 0x0101, 4) := by decide

theorem test_andN_A18 :
    probe (fun t => (t.regs.a, t.regs.f, t.regs.pc, t.cycles))
        (boot [0xE6, 0x00] { Regs.reset with a := 0xFF, f := 0x10 } [])
      = some (0x00, 0xA0, 0x0102, 8) := by decide

theorem test_xorR_A20 :
    probe (fun t => (t.regs.a, t.regs.f, t.regs.pc, t.cycles)) (boot [0xAF] { Regs.reset with a := 0xC3, f := 0xF0 } [])
      = some (0x00, 0x80, 0x0101, 4) := by decide

theorem test_xorN_A21 :
    probe (fun t => (t.regs.a, t.regs.f, t.regs.pc, t.cycles))
        (boot [0xEE, 0x0F] { Regs.reset with a := 0xFF, f := 0xF0 } [])
      = some (0xF0, 0x00, 0x0102, 8) := by decide

theorem test_orR_A22 :
    probe (fun t => (t.regs.f, t.regs.pc, t.cycles)) (boot [0xB0] { Regs.reset with a := 0x00, b := 0x00, f := 0xF0 } [])
      = some (0x80, 0x0101, 4) := by decide

theorem test_orN_A23 :
    probe (fun t => (t.regs.a, t.regs.f, t.regs.pc, t.cycles))
        (boot [0xF6, 0x80] { Regs.reset with a := 0x01, f := 0xF0 } [])
      = some (0x81, 0x00, 0x0102, 8) := by decide

theorem test_cpR_A24 :
    probe (fun t => (t.regs.f, t.regs.pc, t.cycles)) (boot [0xB8] { Regs.reset with a := 0x3C, b := 0x2F, f := 0x00 } [])
      = some (0x60, 0x0101, 4) := by decide

theorem test_cpN_A26 :
    probe (fun t => (t.regs.f, t.regs.pc, t.cycles)) (boot [0xFE, 0x40] { Regs.reset with a := 0x3C, f := 0x00 } [])
      = some (0x50, 0x0102, 8) := by decide

theorem test_incR_A29 :
    probe (fun t => (t.regs.f, t.regs.b, t.regs.pc, t.cycles)) (boot [0x04] { Regs.reset with b := 0x0F, f := 0xC0 } [])
      = some (0x20, 0x10, 0x0101, 4) := by decide

theorem test_incHl_A30 :
    probe (fun t => (t.regs.f, t.regs.pc, flatByte 0xC000 t, t.cycles))
        (boot [0x34] { Regs.reset with h := 0xC0, l := 0x00, f := 0x00 } [(0xC000, 0x7F)])
      = some (0x20, 0x0101, 0x80, 12) := by decide

theorem test_decR_A32 :
    probe (fun t => (t.regs.f, t.regs.b, t.regs.pc, t.cycles)) (boot [0x05] { Regs.reset with b := 0x00, f := 0x10 } [])
      = some (0x70, 0xFF, 0x0101, 4) := by decide

theorem test_decHl_A33 :
    probe (fun t => (t.regs.f, t.regs.pc, flatByte 0xC000 t, t.cycles))
        (boot [0x35] { Regs.reset with h := 0xC0, l := 0x00, f := 0x00 } [(0xC000, 0x10)])
      = some (0x60, 0x0101, 0x0F, 12) := by decide

theorem test_daa_add_A35 :
    probe (fun t => (t.regs.a, t.regs.f, t.regs.pc, t.cycles)) (boot [0x27] { Regs.reset with a := 0x9A, f := 0x00 } [])
      = some (0x00, 0x90, 0x0101, 4) := by decide

theorem test_daa_sub_A38 :
    probe (fun t => (t.regs.a, t.regs.f, t.regs.pc, t.cycles)) (boot [0x27] { Regs.reset with a := 0xFA, f := 0x60 } [])
      = some (0xF4, 0x40, 0x0101, 4) := by decide

theorem test_cpl_A41 :
    probe (fun t => (t.regs.a, t.regs.f, t.regs.pc, t.cycles)) (boot [0x2F] { Regs.reset with a := 0x35, f := 0x90 } [])
      = some (0xCA, 0xF0, 0x0101, 4) := by decide

theorem test_scf_A42 :
    probe (fun t => (t.regs.f, t.regs.pc, t.cycles)) (boot [0x37] { Regs.reset with f := 0xE0 } [])
      = some (0x90, 0x0101, 4) := by decide

theorem test_ccf_A43 :
    probe (fun t => (t.regs.f, t.regs.pc, t.cycles)) (boot [0x3F] { Regs.reset with f := 0xF0 } [])
      = some (0x80, 0x0101, 4) := by decide

/-! Vectors of 95_test_vectors.md 2.4; the name ends in the row. -/

theorem test_addHlRr_X2 :
    probe (fun t => (t.regs.f, t.regs.h, t.regs.l, t.regs.pc, t.cycles))
        (boot [0x29] { Regs.reset with h := 0x8A, l := 0x23, f := 0x00 } [])
      = some (0x30, 0x14, 0x46, 0x0101, 8) := by decide

theorem test_addHlRr_z_X3 :
    probe (fun t => (t.regs.f, t.regs.h, t.regs.l, t.regs.pc, t.cycles))
        (boot [0x19] { Regs.reset with h := 0x0F, l := 0xFF, d := 0x00, e := 0x01, f := 0xC0 } [])
      = some (0xA0, 0x10, 0x00, 0x0101, 8) := by decide

theorem test_incRr_X5 :
    probe (fun t => (t.regs.f, t.regs.b, t.regs.c, t.regs.pc, t.cycles))
        (boot [0x03] { Regs.reset with b := 0xFF, c := 0xFF, f := 0x00 } [])
      = some (0x00, 0x00, 0x00, 0x0101, 8) := by decide

theorem test_incRr_sp_X6 :
    probe (fun t => (t.regs.f, t.regs.sp, t.regs.pc, t.cycles)) (boot [0x33] { Regs.reset with sp := 0xFFFF } [])
      = some (0xB0, 0x0000, 0x0101, 8) := by decide

theorem test_decRr_X7 :
    probe (fun t => (t.regs.f, t.regs.d, t.regs.e, t.regs.pc, t.cycles))
        (boot [0x1B] { Regs.reset with d := 0x00, e := 0x00 } [])
      = some (0xB0, 0xFF, 0xFF, 0x0101, 8) := by decide

theorem test_addSpE_X10 :
    probe (fun t => (t.regs.f, t.regs.sp, t.regs.pc, t.cycles))
        (boot [0xE8, 0xFF] { Regs.reset with sp := 0xD000, f := 0x00 } [])
      = some (0x00, 0xCFFF, 0x0102, 16) := by decide

theorem test_addSpE_carry_X11 :
    probe (fun t => (t.regs.f, t.regs.sp, t.regs.pc, t.cycles))
        (boot [0xE8, 0x80] { Regs.reset with sp := 0x0080, f := 0x00 } [])
      = some (0x10, 0x0000, 0x0102, 16) := by decide

/-! Vectors of 95_test_vectors.md 2.5; the name ends in the row. -/

theorem test_rlca_B1 :
    probe (fun t => (t.regs.a, t.regs.f, t.regs.pc, t.cycles)) (boot [0x07] { Regs.reset with a := 0x85, f := 0x80 } [])
      = some (0x0B, 0x10, 0x0101, 4) := by decide

theorem test_rrca_B3 :
    probe (fun t => (t.regs.a, t.regs.f, t.regs.pc, t.cycles)) (boot [0x0F] { Regs.reset with a := 0x3B, f := 0x00 } [])
      = some (0x9D, 0x10, 0x0101, 4) := by decide

theorem test_rla_B5 :
    probe (fun t => (t.regs.a, t.regs.f, t.regs.pc, t.cycles)) (boot [0x17] { Regs.reset with a := 0x80, f := 0x00 } [])
      = some (0x00, 0x10, 0x0101, 4) := by decide

theorem test_rra_B7 :
    probe (fun t => (t.regs.a, t.regs.f, t.regs.pc, t.cycles)) (boot [0x1F] { Regs.reset with a := 0x00, f := 0x10 } [])
      = some (0x80, 0x00, 0x0101, 4) := by decide

theorem test_rlcR_B8 :
    probe (fun t => (t.regs.f, t.regs.b, t.regs.pc, t.cycles))
        (boot [0xCB, 0x00] { Regs.reset with b := 0x85, f := 0x00 } [])
      = some (0x10, 0x0B, 0x0102, 8) := by decide

theorem test_rrcR_B10 :
    probe (fun t => (t.regs.f, t.regs.c, t.regs.pc, t.cycles))
        (boot [0xCB, 0x09] { Regs.reset with c := 0x01, f := 0x00 } [])
      = some (0x10, 0x80, 0x0102, 8) := by decide

theorem test_rlR_B11 :
    probe (fun t => (t.regs.f, t.regs.d, t.regs.pc, t.cycles))
        (boot [0xCB, 0x12] { Regs.reset with d := 0x80, f := 0x00 } [])
      = some (0x90, 0x00, 0x0102, 8) := by decide

theorem test_rlHl_B12 :
    probe (fun t => (t.regs.f, t.regs.pc, flatByte 0xC000 t, t.cycles))
        (boot [0xCB, 0x16] { Regs.reset with h := 0xC0, l := 0x00, f := 0x10 } [(0xC000, 0x11)])
      = some (0x00, 0x0102, 0x23, 16) := by decide

theorem test_rrR_B13 :
    probe (fun t => (t.regs.f, t.regs.e, t.regs.pc, t.cycles))
        (boot [0xCB, 0x1B] { Regs.reset with e := 0x01, f := 0x00 } [])
      = some (0x90, 0x00, 0x0102, 8) := by decide

theorem test_slaR_B14 :
    probe (fun t => (t.regs.f, t.regs.h, t.regs.pc, t.cycles))
        (boot [0xCB, 0x24] { Regs.reset with h := 0xFF, f := 0x00 } [])
      = some (0x10, 0xFE, 0x0102, 8) := by decide

theorem test_sraR_B16 :
    probe (fun t => (t.regs.a, t.regs.f, t.regs.pc, t.cycles))
        (boot [0xCB, 0x2F] { Regs.reset with a := 0x8A, f := 0x00 } [])
      = some (0xC5, 0x00, 0x0102, 8) := by decide

theorem test_swapR_B18 :
    probe (fun t => (t.regs.a, t.regs.f, t.regs.pc, t.cycles))
        (boot [0xCB, 0x37] { Regs.reset with a := 0xF0, f := 0xF0 } [])
      = some (0x0F, 0x00, 0x0102, 8) := by decide

theorem test_swapHl_B19 :
    probe (fun t => (t.regs.f, t.regs.pc, flatByte 0xC000 t, t.cycles))
        (boot [0xCB, 0x36] { Regs.reset with h := 0xC0, l := 0x00, f := 0x10 } [(0xC000, 0x00)])
      = some (0x80, 0x0102, 0x00, 16) := by decide

theorem test_srlR_B20 :
    probe (fun t => (t.regs.a, t.regs.f, t.regs.pc, t.cycles))
        (boot [0xCB, 0x3F] { Regs.reset with a := 0x01, f := 0x00 } [])
      = some (0x00, 0x90, 0x0102, 8) := by decide

theorem test_bitBR_B22 :
    probe (fun t => (t.regs.f, t.regs.pc, t.cycles)) (boot [0xCB, 0x7F] { Regs.reset with a := 0x80, f := 0x10 } [])
      = some (0x30, 0x0102, 8) := by decide

theorem test_bitBHl_B24 :
    probe (fun t => (t.regs.f, t.regs.pc, t.cycles))
        (boot [0xCB, 0x46] { Regs.reset with h := 0xC0, l := 0x00, f := 0x00 } [(0xC000, 0xFE)])
      = some (0xA0, 0x0102, 12) := by decide

theorem test_resBR_B25 :
    probe (fun t => (t.regs.a, t.regs.f, t.regs.pc, t.cycles))
        (boot [0xCB, 0x87] { Regs.reset with a := 0xFF, f := 0xF0 } [])
      = some (0xFE, 0xF0, 0x0102, 8) := by decide

theorem test_resBHl_B26 :
    probe (fun t => (t.regs.f, t.regs.pc, flatByte 0xC000 t, t.cycles))
        (boot [0xCB, 0xBE] { Regs.reset with h := 0xC0, l := 0x00, f := 0x00 } [(0xC000, 0xFF)])
      = some (0x00, 0x0102, 0x7F, 16) := by decide

theorem test_setBR_B27 :
    probe (fun t => (t.regs.f, t.regs.b, t.regs.pc, t.cycles)) (boot [0xCB, 0xD8] { Regs.reset with b := 0x00 } [])
      = some (0xB0, 0x08, 0x0102, 8) := by decide

theorem test_setBHl_B28 :
    probe (fun t => (t.regs.f, t.regs.pc, flatByte 0xC000 t, t.cycles))
        (boot [0xCB, 0xFE] { Regs.reset with h := 0xC0, l := 0x00 } [(0xC000, 0x00)])
      = some (0xB0, 0x0102, 0x80, 16) := by decide

/-! Vectors of 95_test_vectors.md 2.6; the name ends in the row. -/

theorem test_jpNn_J1 :
    probe (fun t => (t.regs.f, t.regs.pc, t.cycles)) (boot [0xC3, 0x50, 0x01] Regs.reset [])
      = some (0xB0, 0x0150, 16) := by decide

theorem test_jpCcNn_J4 :
    probe (fun t => (t.regs.f, t.regs.pc, t.cycles)) (boot [0xC2, 0x00, 0x80] { Regs.reset with f := 0x80 } [])
      = some (0x80, 0x0103, 12) := by decide

theorem test_jpCcNn_c_J7 :
    probe (fun t => (t.regs.f, t.regs.pc, t.cycles)) (boot [0xDA, 0x00, 0x80] { Regs.reset with f := 0x10 } [])
      = some (0x10, 0x8000, 16) := by decide

theorem test_jpHl_J8 :
    probe (fun t => (t.regs.f, t.regs.pc, t.cycles)) (boot [0xE9] { Regs.reset with h := 0xC1, l := 0x23 } [])
      = some (0xB0, 0xC123, 4) := by decide

theorem test_jrE_J11 :
    probe (fun t => (t.regs.f, t.regs.pc, t.cycles)) (boot [0x18, 0x80] Regs.reset [])
      = some (0xB0, 0x0082, 12) := by decide

theorem test_jrCcE_J14 :
    probe (fun t => (t.regs.f, t.regs.pc, t.cycles)) (boot [0x20, 0x10] { Regs.reset with f := 0x80 } [])
      = some (0x80, 0x0102, 8) := by decide

theorem test_jrCcE_z_J15 :
    probe (fun t => (t.regs.f, t.regs.pc, t.cycles)) (boot [0x28, 0xFA] { Regs.reset with f := 0x80 } [])
      = some (0x80, 0x00FC, 12) := by decide

theorem test_callNn_J18 :
    probe (fun t => (t.regs.f, t.regs.sp, t.regs.pc, flatByte 0xCFFF t, flatByte 0xCFFE t, t.cycles))
        (boot [0xCD, 0x34, 0x12] { Regs.reset with sp := 0xD000 } [])
      = some (0xB0, 0xCFFE, 0x1234, 0x01, 0x03, 24) := by decide

theorem test_callCcNn_J20 :
    probe (fun t => (t.regs.f, t.regs.pc, t.cycles)) (boot [0xC4, 0x00, 0x20] { Regs.reset with sp := 0xD000, f := 0x80 } [])
      = some (0x80, 0x0103, 12) := by decide

theorem test_callCcNn_c_J21 :
    probe (fun t => (t.regs.f, t.regs.sp, t.regs.pc, flatByte 0xCFFF t, flatByte 0xCFFE t, t.cycles))
        (boot [0xDC, 0x00, 0x20] { Regs.reset with sp := 0xD000, f := 0x10 } [])
      = some (0x10, 0xCFFE, 0x2000, 0x01, 0x03, 24) := by decide

theorem test_ret_J22 :
    probe (fun t => (t.regs.f, t.regs.sp, t.regs.pc, t.cycles))
        (boot [0xC9] { Regs.reset with sp := 0xC000 } [(0xC000, 0x03), (0xC001, 0x01)])
      = some (0xB0, 0xC002, 0x0103, 16) := by decide

theorem test_retCc_J24 :
    probe (fun t => (t.regs.f, t.regs.pc, t.cycles))
        (boot [0xC0] { Regs.reset with sp := 0xC000, f := 0x80 } [(0xC000, 0x03), (0xC001, 0x01)])
      = some (0x80, 0x0101, 8) := by decide

theorem test_retCc_c_J25 :
    probe (fun t => (t.regs.f, t.regs.sp, t.regs.pc, t.cycles))
        (boot [0xD8] { Regs.reset with sp := 0xC000, f := 0x10 } [(0xC000, 0xCD), (0xC001, 0xAB)])
      = some (0x10, 0xC002, 0xABCD, 20) := by decide

theorem test_reti_J26 :
    probe (fun t => (t.regs.f, t.regs.sp, t.regs.pc, t.ime, t.cycles))
        (boot [0xD9] { Regs.reset with sp := 0xC000 } [(0xC000, 0x50), (0xC001, 0x01)])
      = some (0xB0, 0xC002, 0x0150, true, 16) := by decide

theorem test_rstT_J28 :
    probe (fun t => (t.regs.f, t.regs.sp, t.regs.pc, flatByte 0xCFFF t, flatByte 0xCFFE t, t.cycles))
        (boot [0xEF] { Regs.reset with sp := 0xD000 } [])
      = some (0xB0, 0xCFFE, 0x0028, 0x01, 0x01, 16) := by decide

theorem test_rstT_wrap_J30 :
    probe (fun t => (t.regs.f, t.regs.sp, t.regs.pc, flatByte 0xFFFF t, flatByte 0xFFFE t, t.cycles))
        (boot [0xFF] { Regs.reset with sp := 0x0000 } [])
      = some (0xB0, 0xFFFE, 0x0038, 0x01, 0x01, 16) := by decide

/-! Vectors of 95_test_vectors.md 2.7; the name ends in the row. -/

theorem test_stop_C3 :
    probe (fun t => (t.regs.f, t.regs.pc, t.cycles)) (boot [0x10, 0x76] Regs.reset [])
      = some (0xB0, 0x0102, 4) := by decide

theorem test_halt_C4 :
    probe (fun t => (t.regs.f, t.regs.pc, t.runState, t.cycles)) (boot [0x76] Regs.reset [])
      = some (0xB0, 0x0101, .halted, 4) := by decide

theorem test_di_C10 :
    probe (fun t => (t.regs.f, t.regs.pc, t.ime, t.imePending, t.cycles))
        ({ boot [0xF3] Regs.reset [] with ime := true, imePending := true })
      = some (0xB0, 0x0101, false, false, 4) := by decide

theorem test_nop_C1 :
    probe (fun t => (t.regs.f, t.regs.pc, t.cycles)) (boot [0x00] Regs.reset [])
      = some (0xB0, 0x0101, 4) := by decide

theorem test_dispatch_wrap_C22 :
    probe (fun t => (t.regs.sp, t.regs.pc, t.ime, flatByte 0xFFFF t, flatByte 0xFF0F t, t.cycles))
        ({ boot [0x00] { Regs.reset with sp := 0x0001 } [(0xFFFF, 0x01), (0xFF0F, 0x01)] with ime := true })
      = some (0xFFFF, 0x0040, false, 0x00, 0x00, 20) := by decide

/-- An overwrite of a listed I/O byte (60_exceptions.md R322; log 21), and of one that is not listed. -/
theorem test_envOverwrite :
    let p : Params := { Params.spec with envWritable := [0xFF00, 0xFF01, 0xFF44] }
    readByte 0xFF01 (envOverwrite p 0xFF01 0x5A State.reset) = .next 0x5A
      ∧ (envOverwrite p 0xFF00 0x20 State.reset).joypSelect = 0b10
      ∧ readByte 0xFF44 (envOverwrite p 0xFF44 0x90 State.reset) = .next 0x90
      ∧ envOverwrite p 0xFF45 0x90 State.reset = State.reset := ⟨rfl, by decide, rfl, by decide⟩

/-! ### Witnesses: for every statement with hypotheses, states and operands that meet them together, with each clause at
the boundary of its range -/

theorem test_witness_DecodeEncode :
    (Instr.rstT 0x00).wellFormed = true ∧ (Instr.rstT 0x38).wellFormed = true ∧ (Instr.ldRrNn .sp 0xFFFF).wellFormed = true := by
  decide

theorem test_witness_EncodeDecode :
    lengthOf 0xC3 ≤ [0x50#8, 0x01].length + 1 ∧ decode [0xC3, 0x50, 0x01] = .ok (.jpNn 0x0150, []) :=
  ⟨by decide, rfl⟩

theorem test_witness_StepRunsDecoded :
    runsInstruction (boot [0x3E, 0x9C] Regs.reset []) = true
      ∧ bytesAt (boot [0x3E, 0x9C] Regs.reset []) 0x0100 2 = some [0x3E, 0x9C]
      ∧ decode [0x3E, 0x9C] = .ok (.ldRN .a 0x9C, [])
      ∧ (probe (fun t => (t.regs.a, t.regs.pc)) (boot [0x3E, 0x9C] Regs.reset [])) = some (0x9C, 0x0102) :=
  ⟨by decide, by decide, rfl, by decide⟩

/-- The fault clause, on an undefined byte. -/
theorem test_witness_StepRunsDecoded_fault :
    runsInstruction (boot [0xD3] Regs.reset []) = true ∧ bytesAt (boot [0xD3] Regs.reset []) 0x0100 1 = some [0xD3]
      ∧ decode [0xD3] = .ok (.illegalD3, [])
      ∧ exec .illegalD3 (fetched 1 (boot [0xD3] Regs.reset [])) = .fault (.invalidOpcode 0xD3) :=
  ⟨by decide, by decide, rfl, rfl⟩

theorem test_witness_UndefinedByteStopsStep :
    runsInstruction (boot [0xFD] Regs.reset []) = true ∧ readByte 0x0100 (boot [0xFD] Regs.reset []) = .next 0xFD
      ∧ stops (boot [0xFD] Regs.reset []) = some (.invalidOpcode 0xFD) := ⟨by decide, rfl, by decide⟩

theorem test_witness_HaltedIdleStep :
    ({ State.reset with runState := .halted } : State).runState = .halted
      ∧ flatByte 0xFF0F { State.reset with runState := .halted } &&& flatByte 0xFFFF { State.reset with runState := .halted }
          &&& 0x1F = 0 := by decide

/-- The lowest and the highest interrupt bit. -/
theorem test_witness_InterruptEntry :
    StateOk (interrupted 0x1F) = true ∧ (interrupted 0x1F).ime = true ∧ Pushable (interrupted 0x1F) = true
      ∧ (flatByte 0xFF0F (interrupted 0x1F) &&& flatByte 0xFFFF (interrupted 0x1F) &&& 0x1F).getLsbD 0 = true
      ∧ StateOk (interrupted 0xF0) = true ∧ (interrupted 0xF0).ime = true ∧ Pushable (interrupted 0xF0) = true
      ∧ (flatByte 0xFF0F (interrupted 0xF0) &&& flatByte 0xFFFF (interrupted 0xF0) &&& 0x1F).getLsbD 4 = true
      ∧ ∀ k, k < 4 →
          (flatByte 0xFF0F (interrupted 0xF0) &&& flatByte 0xFFFF (interrupted 0xF0) &&& 0x1F).getLsbD k = false := by decide

/-- The clause of a push that leaves its buffer, at the last `SP` whose second byte does. -/
theorem test_witness_InterruptEntry_fault :
    let s : State := { (interrupted 0x1F).setSp 0xC001 with cart := missingRam.cart }
    StateOk s = true ∧ s.ime = true ∧ Pushable s = false
      ∧ (flatByte 0xFF0F s &&& flatByte 0xFFFF s &&& 0x1F).getLsbD 0 = true
      ∧ stops s = some (.bankIndexOutOfRange 0x1FFF) := by decide

theorem test_witness_BankFaultNeedsMissingRam :
    StateOk missingRam = true ∧ stops missingRam = some (.bankIndexOutOfRange 0) := by decide

theorem test_witness_StepKeepsInv :
    StateOk State.reset = true ∧ probe (fun t => t.regs.pc) State.reset = some 0x0101 := by decide

theorem test_witness_MovesKeepInv :
    (match actAll { Params.spec with envWritable := [0xFF40] }
        [.request 0x1F, .overwrite 0xFF40 0x92, .step, .flush .ioError, .flush .ok] State.reset with
      | .next t => StateOk t && decide (ifReg t = 0x1F) && decide (flatByte 0xFF40 t = 0x92)
      | _ => false) = true := by decide

theorem test_witness_PowerOnInv :
    (image 0x03 0x00 0x03).cells.wf .rom = true ∧ (image 0x03 0x00 0x03).cells.below 0x8000 = true
      ∧ Memory.wf .ram [(0x1FFF, 0x01#8)] = true ∧ Memory.below 0x8000 [(0x1FFF, 0x01#8)] = true
      ∧ loads (image 0x03 0x00 0x03) (some ⟨0x8000, [(0x1FFF, 0x01)]⟩) = true ∧ loads (image 0x03 0x00 0x03) none = true := by
  decide

/-- `StepKeepsImmutable` and `DirtySignal`: a step that stores to the cartridge RAM raises `dirty`, another does not. -/
theorem test_witness_DirtySignal :
    ramOn.dirty = false ∧ probe (fun t => t.dirty) ramOn = some true ∧ probe (fun t => t.dirty) State.reset = some false := by
  decide

theorem test_witness_ImeRises :
    probe (fun t => t.ime) { State.reset with imePending := true } = some true
      ∧ probe (fun t => t.ime) (boot [0xD9] Regs.reset []) = some true
      ∧ readByte 0x0100 (boot [0xD9] Regs.reset []) = .next 0xD9 := ⟨by decide, by decide, rfl⟩

theorem test_witness_HaltedEntered :
    probe (fun t => t.runState) { State.reset with runState := .halted } = some .halted
      ∧ probe (fun t => t.runState) (boot [0x76] Regs.reset []) = some .halted := by decide

/-- Every window of the read table at its first and last address. -/
theorem test_witness_RouterRead :
    ([0x0000#16, 0x3FFF, 0x4000, 0x7FFF, 0x8000, 0x9FFF, 0xA000, 0xBFFF, 0xC000, 0xFEFF, 0xFF00, 0xFF01, 0xFF02, 0xFFFF].all
        fun a => Readable State.reset a && Readable ramOn a && Readable ramOff a) = true
      ∧ State.reset.cart.variant = .noBanking ∧ ramOn.cart.variant = .bankSwitching ∧ ramOn.cart.ramEnable = true
      ∧ ramOff.cart.variant = .bankSwitching ∧ ramOff.cart.ramEnable = false := by decide

/-- `ReadAnswers` and `RouterWrite`: an access inside and one outside the buffers. -/
theorem test_witness_ReadAnswers :
    StateOk ramOn = true ∧ Readable ramOn 0xBFFF = true ∧ Writable ramOn 0xBFFF = true
      ∧ StateOk missingRam = true ∧ Readable missingRam 0xA000 = false ∧ Writable missingRam 0xBFFF = false := by decide

theorem test_witness_RamEnableWrite :
    ramOff.cart.variant = .bankSwitching ∧ (0x1FFF#16).toNat < 0x2000 ∧ (0x3A#8).extractLsb' 0 4 = 0xA
      ∧ (0xF0#8).extractLsb' 0 4 = 0x0 ∧ (0x0B#8).extractLsb' 0 4 ≠ 0xA ∧ (0x0B#8).extractLsb' 0 4 ≠ 0x0 := by decide

/-- Enable, disable, enable: the three writes complete. -/
theorem test_witness_RamEnableWrite_roundTrip :
    (match busWrite 0x1FFF 0x0A ramOff with
      | .next s1 =>
        match busWrite 0x1FFF 0x00 s1 with
        | .next s2 =>
          match busWrite 0x1FFF 0x0A s2 with
          | .next s3 => s3.cart.ramEnable && !s2.cart.ramEnable
          | _ => false
        | _ => false
      | _ => false) = true := by decide

/-- Both modes, and both values of bit 0. -/
theorem test_witness_BankControlWrites :
    ramOff.cart.variant = .bankSwitching ∧ ramOff.cart.bankMode = .romBanking ∧ ramOn.cart.bankMode = .ramBanking
      ∧ ramOn.cart.variant = .bankSwitching ∧ (0x01#8).getLsbD 0 = true ∧ (0xFE#8).getLsbD 0 = false
      ∧ ([0x2000#16, 0x3FFF, 0x4000, 0x5FFF, 0x6000, 0x7FFF].all fun a => decide (0x2000 ≤ a.toNat ∧ a.toNat < 0x8000)) = true := by
  decide

theorem test_witness_NoBankingCartridge :
    State.reset.cart.variant = .noBanking ∧ (0x7FFF#16).toNat < 0x8000 ∧ (0xA000#16).toNat < 0xC000 := by decide

/-- The register reduced to another bank, and reduced to 0. -/
theorem test_witness_EffectiveBanks :
    2 ≤ ramOn.cart.romBankCount ∧ ramOn.cart.romBank.toNat % ramOn.cart.romBankCount ≠ 0 ∧ ramOn.cart.ramBankCount ≠ 0
      ∧ ({ ramOn.cart with romBank := 0x02 } : Cartridge).romBank.toNat % ramOn.cart.romBankCount = 0 := by decide

theorem test_witness_RamBankScenario :
    StateOk ramOff = true ∧ ramOff.cart.variant = .bankSwitching ∧ 2 ≤ ramOff.cart.ramBankCount := by decide

/-- The four defined type bytes and the first undefined one (95_test_vectors.md S1). -/
theorem test_witness_LoadSelectsVariant :
    loads (image 0x00 0x00 0x00) none = true ∧ loads (image 0x03 0x00 0x03) none = true
      ∧ Params.spec.typeTable (loadCell .rom (image 0x00 0x00 0x00).cells 0x0147) = some .noBanking
      ∧ Params.spec.typeTable (loadCell .rom (image 0x03 0x00 0x03).cells 0x0147) = some .bankSwitching
      ∧ Params.spec.romBankTable (loadCell .rom (image 0x03 0x00 0x03).cells 0x0148) = some 2
      ∧ Params.spec.ramBankTable (loadCell .rom (image 0x03 0x00 0x03).cells 0x0149) = some 4
      ∧ (image 0x03 0x00 0x03).len = 2 * 0x4000 ∧ 0x8000 ≤ (image 0x03 0x00 0x03).len
      ∧ Params.spec.typeTable (loadCell .rom (image 0x04 0x00 0x00).cells 0x0147) = none := by decide

theorem test_witness_LoadBuildsCartridge :
    Machine.typeTable (loadCell .rom (image 0x03 0x00 0x03).cells 0x0147) = some .bankSwitching
      ∧ Machine.romBankTable (loadCell .rom (image 0x03 0x00 0x03).cells 0x0148) = some 2
      ∧ Machine.ramBankTable (loadCell .rom (image 0x03 0x00 0x03).cells 0x0149) = some 4
      ∧ (image 0x03 0x00 0x03).len = 2 * 0x4000
      ∧ Machine.typeTable (loadCell .rom (image 0x00 0x00 0x00).cells 0x0147) = some .noBanking
      ∧ Machine.ramBankTable (loadCell .rom (image 0x00 0x00 0x00).cells 0x0149) = some 0 := by decide

/-- The ranges of the reset content of `flat` at their ends. -/
theorem test_witness_PowerOnValues :
    (0x7FFF#16).toNat < 0x8000 ∧ 0x8000 ≤ (0x8000#16).toNat ∧ (0xFEFF#16).toNat < 0xFF00 ∧ 0xFF02 ≤ (0xFF02#16).toNat := by
  decide

theorem test_witness_PersistenceFlush :
    ({ ramOn with dirty := true } : State).dirty = true ∧ ramOn.dirty = false ∧ ramOn.cart.variant = .bankSwitching
      ∧ 0x7FFF < ramOn.cart.ram.len ∧ State.reset.cart.variant = .noBanking := by decide

theorem test_witness_EnvironmentRequest : StateOk State.reset = true ∧ (0xFFFF#16) ≠ 0xFF0F := by decide

/-- A frame of four cycles ends. -/
theorem test_witness_FrameBudget :
    (match runFrame { Params.spec with clockRate := 4, framesPerSecond := 1 } State.reset with
      | .next (n, _) => decide (n = 4)
      | _ => false) = true := by decide

theorem test_witness_RegisterFile : Reg8.b ≠ Reg8.c := by decide

/-- `LoadRegister`, `LoadAccumulator`, `AddAndAdc`, `Subtractions`, `AndXorOr`, `BitTest`: the addresses readable, and a
read that faults. -/
theorem test_witness_loads :
    ([State.reset.regs.hl, State.reset.regs.bc, State.reset.regs.de, 0xC234, 0xFF80, 0xFF13].all (Readable State.reset)) = true
      ∧ readByte missingRam.regs.hl missingRam = .fault (.bankIndexOutOfRange 0) := ⟨by decide, rfl⟩

/-- `StoreByte`, `IncAndDec`, `Rotates`, `Shifts`, `ResetAndSetBit`: the addresses readable and writable, and a write that
faults. -/
theorem test_witness_stores :
    StateOk State.reset = true ∧ Readable State.reset State.reset.regs.hl = true
      ∧ ([State.reset.regs.hl, State.reset.regs.bc, State.reset.regs.de, 0xC300, 0xFF01, 0xFF13].all (Writable State.reset)) = true
      ∧ busWrite 0xA000 0x01 missingRam = .fault (.bankIndexOutOfRange 0) := ⟨by decide, by decide, by decide, rfl⟩

theorem test_witness_StoreStackPointer :
    StateOk State.reset = true ∧ Writable State.reset 0xFFFF = true ∧ Writable State.reset (0xFFFF + 1) = true
      ∧ Writable missingRam 0xBFFF = false ∧ Writable missingRam 0x9FFF = true ∧ Writable missingRam (0x9FFF + 1) = false := by
  decide

/-- `PushStoresPair`, `Calls`: both bytes writable, also where `SP` wraps; and a first write, and only a second, that faults. -/
theorem test_witness_PushStoresPair :
    StateOk (boot [] { Regs.reset with sp := 0x0001 } []) = true ∧ Pushable (boot [] { Regs.reset with sp := 0x0001 } []) = true
      ∧ Pushable State.reset = true ∧ Pushable (missingRam.setSp 0xA002) = false ∧ Pushable (missingRam.setSp 0xC001) = false := by
  decide

/-- `PopLoadsPair`, `Returns`, `ReturnFromInterrupt`: both bytes readable, also where `SP` wraps, and a first read, and only a
second, that faults. -/
theorem test_witness_PopLoadsPair :
    Poppable (boot [] { Regs.reset with sp := 0xFFFF } []) = true ∧ Poppable State.reset = true
      ∧ Poppable (missingRam.setSp 0xBFFF) = false ∧ Poppable (missingRam.setSp 0x9FFF) = false := by decide

/-- Every condition true and every condition false. -/
theorem test_witness_Jumps :
    (CondTrue .nz 0x00 ∧ CondTrue .z 0x80 ∧ CondTrue .nc 0x00 ∧ CondTrue .c 0x10)
      ∧ ¬CondTrue .nz 0x80 ∧ ¬CondTrue .z 0x00 ∧ ¬CondTrue .nc 0x10 ∧ ¬CondTrue .c 0x00 := by
  refine ⟨⟨rfl, rfl, rfl, rfl⟩, ?_, ?_, ?_, ?_⟩ <;> intro h <;> cases h

/-- Both branches of `DAA`. -/
theorem test_witness_DecimalAdjust : (0x00#8).getLsbD 6 = false ∧ (0x40#8).getLsbD 6 = true := by decide

/-- Both displacements. -/
theorem test_witness_PairArithmetic :
    (((1#16) = 1 ∧ Instr.incRr = Instr.incRr) ∨ ((1#16) = -1 ∧ Instr.incRr = Instr.decRr))
      ∧ (((-1#16) = 1 ∧ Instr.decRr = Instr.incRr) ∨ ((-1#16) = -1 ∧ Instr.decRr = Instr.decRr)) :=
  ⟨.inl ⟨rfl, rfl⟩, .inr ⟨rfl, rfl⟩⟩

/-- `SP` at both ends of its range. -/
theorem test_witness_InterruptRoundTrip :
    StateOk (interrupted 0x01) = true ∧ (interrupted 0x01).ime = true
      ∧ flatByte 0xFF0F (interrupted 0x01) &&& flatByte 0xFFFF (interrupted 0x01) &&& 0x1F ≠ 0
      ∧ (interrupted 0x01).regs.sp = 0xFF00 ∧ probe (fun t => t.regs.pc) (interrupted 0x01) = some 0x0040
      ∧ probe (fun t => t.regs.pc) ((interrupted 0x01).setSp 0xC002) = some 0x0040 := by decide

end Sys2Proof.Tests
end

section
/-! Control writes through the Router, and the RAM-enable register (20_memory.md R65, R81, R101). -/

namespace Sys2Proof.Machine

/-- A Router write below `0x8000` is a control write of the cartridge (20_memory.md R101, R112). -/
theorem busWrite_control {a : Word} (v : Byte) (s : State) (h : a.toNat < 0x8000) :
    busWrite a v s = .next { s with cart := handleControlWrite s.cart a.toNat v } := by
  by_cases hlow : a.toNat < 0x4000
  · simp only [busWrite, route_romFixed hlow]
  · simp only [busWrite, route_romSwitch (Nat.le_of_not_lt hlow) h]

theorem handleControlWrite_ramEnable {c : Cartridge} {a : Nat} (v : Byte) (hv : c.variant = .bankSwitching)
    (ha : a < 0x2000) : handleControlWrite c a v = controlRamEnable c v := by
  simp only [handleControlWrite, hv, ha, if_true]

theorem controlRamEnable_enable (c : Cartridge) {v : Byte} (h : v.extractLsb' 0 4 = 0xA) :
    controlRamEnable c v = { c with ramEnable := true } := by
  simp only [controlRamEnable, h, if_true]

theorem controlRamEnable_disable (c : Cartridge) {v : Byte} (h : v.extractLsb' 0 4 = 0x0) :
    controlRamEnable c v = { c with ramEnable := false } := by
  have hA : v.extractLsb' 0 4 ≠ 0xA := by rw [h]; decide
  simp only [controlRamEnable, if_neg hA, if_pos h]

theorem controlRamEnable_other (c : Cartridge) {v : Byte} (hA : v.extractLsb' 0 4 ≠ 0xA)
    (h0 : v.extractLsb' 0 4 ≠ 0x0) : controlRamEnable c v = c := by
  simp only [controlRamEnable, hA, h0, if_false]

section
variable {a : Word} {v : Byte} {s : State} (hv : s.cart.variant = .bankSwitching) (ha : a.toNat < 0x2000)
include hv ha

/-- A Router write below `0x2000` on a Bank-Switching cartridge (20_memory.md R81). -/
theorem busWrite_ramEnable : busWrite a v s = .next { s with cart := controlRamEnable s.cart v } := by
  rw [busWrite_control v s (by omega), handleControlWrite_ramEnable v hv ha]

theorem busWrite_enables (h : v.extractLsb' 0 4 = 0xA) :
    busWrite a v s = .next { s with cart := { s.cart with ramEnable := true } } := by
  rw [busWrite_ramEnable hv ha, controlRamEnable_enable _ h]

theorem busWrite_disables (h : v.extractLsb' 0 4 = 0x0) :
    busWrite a v s = .next { s with cart := { s.cart with ramEnable := false } } := by
  rw [busWrite_ramEnable hv ha, controlRamEnable_disable _ h]

theorem busWrite_ignored (hA : v.extractLsb' 0 4 ≠ 0xA) (h0 : v.extractLsb' 0 4 ≠ 0x0) : busWrite a v s = .next s := by
  rw [busWrite_ramEnable hv ha, controlRamEnable_other _ hA h0]

end

/-- Settles O22: the three nibbles are the three cases of the control write; an enabling write forgets what the register
held before, so the second one leaves what the first did. -/
theorem ramEnableWrite : Obligations.RamEnableWrite := by
  unfold Obligations.RamEnableWrite
  intro s a v hv ha
  refine ⟨busWrite_enables hv ha, busWrite_disables hv ha, busWrite_ignored hv ha, fun s1 s2 s3 h1 h2 h3 => ?_⟩
  have hA : (0x0A#8).extractLsb' 0 4 = 0xA := by decide
  have h0 : (0x00#8).extractLsb' 0 4 = 0x0 := by decide
  obtain rfl := Host.Outcome.next.inj (h1.symm.trans (busWrite_enables hv ha hA))
  obtain rfl := Host.Outcome.next.inj (h2.symm.trans (busWrite_disables hv ha h0))
  exact Host.Outcome.next.inj (h3.symm.trans (busWrite_enables hv ha hA))

end Sys2Proof.Machine
end

section
/-! What `load` answers (20_memory.md R71, R72). -/

namespace Sys2Proof.Machine

/-- `load` completes exactly where the three header bytes are in the tables and the launch premises hold, and then with
the fresh cartridge they name (20_memory.md R71; 93_implementation_defined.md U22 for the save). -/
theorem load_eq_next {p : Params} {raw : Buffer} {save : Option Buffer} {c : Cartridge} :
    load p raw save = .next c ↔
      ∃ v romBanks ramBanks, max p.typeOff (max p.romszOff p.ramszOff) < raw.len
        ∧ p.typeTable (loadCell .rom raw.cells p.typeOff) = some v
        ∧ p.romBankTable (loadCell .rom raw.cells p.romszOff) = some romBanks
        ∧ p.ramBankTable (loadCell .rom raw.cells p.ramszOff) = some ramBanks
        ∧ raw.len = romBanks * 0x4000 ∧ 0x8000 ≤ raw.len ∧ saveLengthOk ramBanks save = true
        ∧ c = freshCartridge v romBanks ramBanks raw save := by
  constructor
  · intro h
    simp only [load] at h
    split at h
    · cases h
    next hlen =>
    split at h
    · cases h
    next v hv =>
    split at h
    · cases h
    next romBanks hrom =>
    split at h
    · cases h
    next ramBanks hram =>
    split at h
    · cases h
    next hsize =>
    split at h
    next hsave =>
      cases h
      exact ⟨v, romBanks, ramBanks, by omega, hv, hrom, hram, by omega, by omega, hsave, rfl⟩
    · cases h
  · rintro ⟨v, romBanks, ramBanks, hlen, hv, hrom, hram, hsize, hmin, hsave, rfl⟩
    have hsize' : ¬(raw.len ≠ romBanks * 0x4000 ∨ raw.len < 0x8000) := by omega
    simp only [load, Nat.not_le.mpr hlen, hv, hrom, hram, hsize', hsave, if_false, if_true]

/-- An image whose type byte is not in the table stops `load` (20_memory.md R72). -/
theorem load_fault_of_type {p : Params} {raw : Buffer} (save : Option Buffer)
    (hlen : max p.typeOff (max p.romszOff p.ramszOff) < raw.len)
    (ht : p.typeTable (loadCell .rom raw.cells p.typeOff) = none) :
    load p raw save = .fault (.unsupportedCartridgeType (loadCell .rom raw.cells p.typeOff)) := by
  simp only [load, Nat.not_le.mpr hlen, ht, if_false]

/-- Settles O27: a missing type byte stops `load` at its first lookup; a `load` that completes answers the fresh
cartridge of the variant the table names, and without a save it completes under the launch premises. -/
theorem loadSelectsVariant : Obligations.LoadSelectsVariant := by
  unfold Obligations.LoadSelectsVariant
  intro p raw save htype hromsz hramsz
  have hlen : max p.typeOff (max p.romszOff p.ramszOff) < raw.len := max_lt htype (max_lt hromsz hramsz)
  refine ⟨load_fault_of_type save hlen, fun v c hv hload => ?_, fun v romBanks ramBanks hv hrom hram hsize hmin => ?_⟩
  · obtain ⟨w, _, _, -, hw, -, -, -, -, -, rfl⟩ := load_eq_next.mp hload
    exact Option.some.inj (hw.symm.trans hv)
  · exact ⟨freshCartridge v romBanks ramBanks raw none,
      load_eq_next.mpr ⟨v, romBanks, ramBanks, hlen, hv, hrom, hram, hsize, hmin, rfl, rfl⟩, rfl⟩

end Sys2Proof.Machine
end

section
/-! One Router access, as an instruction with a byte operand uses it: where a read answers and a write completes
(20_memory.md R90), and the effect of a completed write, window by window (R101). -/

namespace Sys2Proof.Machine

theorem bufferRead_answers_iff (sp : Space) (b : Buffer) (i : Nat) :
    (∃ v, bufferRead sp b i = .next v) ↔ i < b.len := by
  obtain ⟨hi, h⟩ | ⟨hi, h⟩ := bufferRead_spec sp b i <;> simp [hi, h]

theorem readRamBanked_answers_iff (c : Cartridge) (a : Nat) :
    (∃ v, readRamBanked c a = .next v) ↔
      (c.variant = .noBanking ∨ c.ramEnable = false) ∨ (c.ramBankCount ≠ 0 ∧ ramBankedIndex c a < c.ram.len) := by
  obtain ⟨hoff, h⟩ | ⟨hv, he, h0, h⟩ | ⟨hv, he, h0, h⟩ := readRamBanked_spec c a
  · simp [hoff, h]
  · simp [hv, he, h0, h]
  · simp [hv, he, h0, h, bufferRead_answers_iff]

/-- A Router read answers exactly where it stays inside its buffer (20_memory.md R90, R100). -/
theorem readable_iff (s : State) (a : Word) : Readable s a = true ↔ ∃ v, readByte a s = .next v := by
  rw [readByte_region]
  unfold Readable
  cases route a <;> simp [bufferRead_answers_iff, readRamBanked_answers_iff]

theorem writeCartRam_completes_iff (a : Word) (v : Byte) (s : State) :
    (∃ u, writeCartRam a v s = .next u) ↔
      (s.cart.variant = .noBanking ∨ s.cart.ramEnable = false)
        ∨ (s.cart.ramBankCount ≠ 0 ∧ ramBankedIndex s.cart a.toNat < s.cart.ram.len) := by
  unfold writeCartRam writeRamBanked
  cases hv : s.cart.variant with
  | noBanking => simp
  | bankSwitching =>
    cases he : s.cart.ramEnable with
    | false => simp
    | true =>
      by_cases h0 : s.cart.ramBankCount = 0
      · simp [h0]
      · by_cases hi : ramBankedIndex s.cart a.toNat < s.cart.ram.len <;> simp [h0, hi, bufferWrite]

/-- A Router write completes exactly where it stays inside its buffer (20_memory.md R90, R101). -/
theorem writable_iff (s : State) (a : Word) (v : Byte) : Writable s a = true ↔ ∃ u, busWrite a v s = .next u := by
  unfold Writable busWrite
  cases route a <;> simp [writeCartRam_completes_iff]

/-- A read looks at nothing but what stands behind the window of its address (20_memory.md R100). -/
theorem readByte_eq_of_window {b : Word} {s t : State} (hflat : flatByte b t = flatByte b s)
    (hfixed : b.toNat < 0x4000 → t.cart.rom = s.cart.rom)
    (hswitch : 0x4000 ≤ b.toNat → b.toNat < 0x8000 → readRomBanked t.cart b.toNat = readRomBanked s.cart b.toNat)
    (hram : 0xA000 ≤ b.toNat → b.toNat < 0xC000 → readRamBanked t.cart b.toNat = readRamBanked s.cart b.toNat)
    (hjoyp : b.toNat = 0xFF00 → joypadByte t = joypadByte s)
    (hserial : b.toNat = 0xFF01 → t.serialByte = s.serialByte) : readByte b t = readByte b s := by
  rcases windows b with h | ⟨h, h'⟩ | ⟨h, h'⟩ | h | h | h
  · rw [readByte_romFixed t h, readByte_romFixed s h, hfixed h]
  · rw [readByte_romSwitch t h h', readByte_romSwitch s h h']
    exact hswitch h h'
  · rw [readByte_cartRam t h h', readByte_cartRam s h h', hram h h']
  · rw [readByte_joypad t h, readByte_joypad s h, hjoyp h]
  · rw [readByte_serial t h, readByte_serial s h, hserial h]
  · rw [readByte_flat t h, readByte_flat s h, hflat]

/-- A control write changes bank registers only, so no byte outside the two switchable windows (R65, R81 to R84). -/
theorem storeEffect_control {a : Word} (v : Byte) (s : State) (ha : a.toNat < 0x8000) :
    StoreEffect s { s with cart := handleControlWrite s.cart a.toNat v } a v := by
  have hrom : (handleControlWrite s.cart a.toNat v).rom = s.cart.rom := by rw [handleControlWrite_frame]
  have hram : (handleControlWrite s.cart a.toNat v).ram = s.cart.ram := by rw [handleControlWrite_frame]
  refine ⟨by simp only [ha, if_true], fun _ _ => rfl, fun h => by omega, fun _ => ⟨hrom, hram, fun b hb => ?_⟩⟩
  exact readByte_eq_of_window rfl (fun _ => hrom) (fun _ _ => by omega) (fun _ _ => by omega) (fun _ => rfl) fun _ => rfl

/-- A store in the flat array. -/
theorem storeEffect_flat {a : Word} (v : Byte) {s : State} (hs : s.flat.wf .flat = true) (ha : InFlat a) :
    StoreEffect s (setFlat a v s) a v := by
  have hsame : flatByte a (setFlat a v s) = v := loadCell_storeCell_same .flat s.flat 0 a.toNat v hs
  have hother : ∀ b, b ≠ a → flatByte b (setFlat a v s) = flatByte b s := fun b hb =>
    loadCell_storeCell_other .flat s.flat a.toNat b.toNat v (mt BitVec.eq_of_toNat_eq hb)
  unfold InFlat at ha
  refine ⟨?_, hother, fun _ b hb => readByte_congr b s _ rfl (hother b hb) rfl rfl rfl, fun h => by omega⟩
  repeat' split
  all_goals first | omega | exact ⟨rfl, hsame⟩

/-- A cartridge RAM write that finds no RAM enabled. -/
theorem storeEffect_cartRam_noop {a : Word} (v : Byte) {s : State} (ha : 0xA000 ≤ a.toNat) (ha' : a.toNat < 0xC000)
    (hoff : s.cart.variant = .noBanking ∨ s.cart.ramEnable = false) : StoreEffect s s a v := by
  have hline : ¬(s.cart.variant = .bankSwitching ∧ s.cart.ramEnable = true) := by
    rintro ⟨hv, he⟩
    simp [hv, he] at hoff
  refine ⟨?_, fun _ _ => rfl, fun _ _ _ => rfl, fun h => by omega⟩
  rw [if_neg (by omega), if_neg (by omega), if_pos ha', if_neg hline]

/-- The state after a store in cartridge RAM, `dirty` set (20_memory.md R88, R104). -/
def storedRam (a : Word) (v : Byte) (s : State) : State :=
  { s with dirty := true, cart := { s.cart with ram := { s.cart.ram with
      cells := storeCell .ram s.cart.ram.cells (ramBankedIndex s.cart a.toNat) v } } }

theorem readRamBanked_storedRam_other {a b : Word} (v : Byte) (s : State) (ha : 0xA000 ≤ a.toNat)
    (hb : 0xA000 ≤ b.toNat) (hne : b ≠ a) :
    readRamBanked (storedRam a v s).cart b.toNat = readRamBanked s.cart b.toNat := by
  have hindex : ramBankedIndex s.cart b.toNat ≠ ramBankedIndex s.cart a.toNat := by
    have := mt BitVec.eq_of_toNat_eq hne
    unfold ramBankedIndex
    omega
  have hcell := loadCell_storeCell_other .ram s.cart.ram.cells _ _ v hindex
  have hbuffer : bufferRead .ram (storedRam a v s).cart.ram (ramBankedIndex s.cart b.toNat)
      = bufferRead .ram s.cart.ram (ramBankedIndex s.cart b.toNat) := by
    simp only [bufferRead, storedRam, hcell]
  have hsame : ramBankedIndex (storedRam a v s).cart b.toNat = ramBankedIndex s.cart b.toNat := rfl
  simp only [readRamBanked, hsame, hbuffer]
  rfl

/-- A store in cartridge RAM; the premises are those under which the write completes (20_memory.md R88, R90). -/
theorem storeEffect_cartRam_stored {a : Word} (v : Byte) {s : State} (hs : s.cart.ram.cells.wf .ram = true)
    (ha : 0xA000 ≤ a.toNat) (ha' : a.toNat < 0xC000) (hv : s.cart.variant = .bankSwitching)
    (he : s.cart.ramEnable = true) (h0 : s.cart.ramBankCount ≠ 0)
    (hi : ramBankedIndex s.cart a.toNat < s.cart.ram.len) : StoreEffect s (storedRam a v s) a v := by
  have hsame : readByte a (storedRam a v s) = .next v := by
    rw [readByte_cartRam _ ha ha']
    simp only [readRamBanked, storedRam, hv, he, h0, if_true, if_false]
    have hcell := loadCell_storeCell_same .ram s.cart.ram.cells 0 (ramBankedIndex s.cart a.toNat) v hs
    exact (if_pos hi).trans (congrArg _ hcell)
  refine ⟨?_, fun _ _ => rfl, fun _ b hb => ?_, fun h => by omega⟩
  · rw [if_neg (by omega), if_neg (by omega), if_pos ha', if_pos ⟨hv, he⟩]
    exact ⟨rfl, hsame, rfl, fun k hk => loadCell_storeCell_other .ram _ _ k v hk⟩
  · exact readByte_eq_of_window rfl (fun _ => rfl) (fun _ _ => rfl)
      (fun h _ => readRamBanked_storedRam_other v s ha h hb) (fun _ => rfl) fun _ => rfl

/-- A write of the joypad register sets the selection bits (20_memory.md R109). -/
theorem storeEffect_joypad {a : Word} (v : Byte) (s : State) (ha : a.toNat = 0xFF00) :
    StoreEffect s { s with joypSelect := v.extractLsb' 4 2 } a v := by
  refine ⟨by simp [ha], fun _ _ => rfl, fun _ b hb => ?_, fun h => by omega⟩
  have hne : b.toNat ≠ 0xFF00 := fun h => hb (BitVec.eq_of_toNat_eq (h.trans ha.symm))
  exact readByte_eq_of_window rfl (fun _ => rfl) (fun _ _ => rfl) (fun _ _ => rfl) (fun h => absurd h hne) fun _ => rfl

/-- A write of the serial register (20_memory.md R111). -/
theorem storeEffect_serial {a : Word} (v : Byte) (s : State) (ha : a.toNat = 0xFF01) :
    StoreEffect s { s with serialByte := v } a v := by
  refine ⟨by simp [ha], fun _ _ => rfl, fun _ b hb => ?_, fun h => by omega⟩
  have hne : b.toNat ≠ 0xFF01 := fun h => hb (BitVec.eq_of_toNat_eq (h.trans ha.symm))
  exact readByte_eq_of_window rfl (fun _ => rfl) (fun _ _ => rfl) (fun _ _ => rfl) (fun _ => rfl) fun h => absurd h hne

theorem flat_wf_of_stateOk {s : State} (h : StateOk s = true) : s.flat.wf .flat = true := by
  simp only [StateOk, Bool.and_eq_true] at h
  obtain ⟨⟨⟨hwf, -⟩, -⟩, -⟩ := h
  exact hwf

theorem ram_wf_of_stateOk {s : State} (h : StateOk s = true) : s.cart.ram.cells.wf .ram = true := by
  simp only [StateOk, Cartridge.ok, Bool.and_eq_true] at h
  obtain ⟨⟨-, -, hram⟩, -⟩ := h
  cases hv : s.cart.variant with
  | noBanking =>
    simp only [hv, Buffer.holds, Bool.and_eq_true] at hram
    obtain ⟨⟨-, hwf⟩, -⟩ := hram
    exact hwf
  | bankSwitching =>
    simp only [hv, Buffer.holds, Bool.and_eq_true] at hram
    obtain ⟨⟨⟨-, hwf⟩, -⟩, -⟩ := hram
    exact hwf

/-- What a completed Router write did, with its frame (20_memory.md R101). -/
theorem storeEffect_of_busWrite {a : Word} {v : Byte} {s u : State} (hs : StateOk s = true)
    (h : busWrite a v s = .next u) : StoreEffect s u a v := by
  rcases write_next a v s u h with ⟨ha, rfl⟩ | ⟨ha, hram, hj, hser, rfl⟩ | ⟨ha, ha', hoff, rfl⟩
    | ⟨ha, ha', hv, he, h0, hi, rfl⟩ | ⟨ha, rfl⟩ | ⟨ha, rfl⟩
  · exact storeEffect_control v s ha
  · exact storeEffect_flat v (flat_wf_of_stateOk hs) (by unfold InFlat; omega)
  · exact storeEffect_cartRam_noop v ha ha' hoff
  · exact storeEffect_cartRam_stored v (ram_wf_of_stateOk hs) ha ha' hv he h0 hi
  · exact storeEffect_joypad v s ha
  · exact storeEffect_serial v s ha

end Sys2Proof.Machine
end

section
/-! The 8-bit loads and stores (40_load8.md). -/

namespace Sys2Proof.Machine

theorem loadReg_of_readByte {a : Word} {s : State} {v : Byte} (r : Reg8) (n : Nat) (h : readByte a s = .next v) :
    loadReg a r n s = .next { afterRead a s with regs := s.regs.set8 r v, cycles := n } := by
  simp only [loadReg, loadTo, read_of_readByte a s v h, chain_next, State.took, State.mapRegs, afterRead_regs]

theorem loadReg_of_fault {a : Word} {s : State} {e : Fault} (r : Reg8) (n : Nat) (h : readByte a s = .fault e) :
    loadReg a r n s = .fault e := by
  simp only [loadReg, loadTo, busRead, h, chain_fault]

theorem storeByte_of_busWrite {a : Word} {v : Byte} {s u : State} (n : Nat) (h : busWrite a v s = .next u) :
    storeByte a v n s = .next { u with cycles := n } := by
  simp only [storeByte, h, chain_next, State.took]

theorem storeByte_of_fault {a : Word} {v : Byte} {s : State} {e : Fault} (n : Nat) (h : busWrite a v s = .fault e) :
    storeByte a v n s = .fault e := by
  simp only [storeByte, h, chain_fault]

/-- An instruction that loads a register from `a` and then updates the registers by `g`. -/
theorem loadsByte_of_loadReg_mapRegs {i : Instr} {a : Word} {s : State} {n : Nat} (r : Reg8) (g : Regs → Regs)
    (h : exec i s = chain (loadReg a r n s) fun u => .next (u.mapRegs g)) :
    LoadsByte i a s n fun v => g (s.regs.set8 r v) := by
  refine ⟨fun ha => ?_, fun e he => ?_⟩
  · obtain ⟨v, hv⟩ := (readable_iff s a).mp ha
    exact ⟨v, hv, by rw [h, loadReg_of_readByte r n hv]; rfl⟩
  · rw [h, loadReg_of_fault r n he, chain_fault]

/-- An instruction that loads a register from `a`. -/
theorem loadsByte_of_loadReg {i : Instr} {a : Word} {s : State} {n : Nat} (r : Reg8) (h : exec i s = loadReg a r n s) :
    LoadsByte i a s n fun v => s.regs.set8 r v := by
  refine loadsByte_of_loadReg_mapRegs r id ?_
  rw [h]
  cases loadReg a r n s <;> rfl

/-- An instruction that stores `v` at `a` and then updates the registers by `g`. -/
theorem storesByte_of_storeByte_mapRegs {i : Instr} {a : Word} {v : Byte} {s : State} {n : Nat} (g : Regs → Regs)
    (h : exec i s = chain (storeByte a v n s) fun u => .next (u.mapRegs g)) : StoresByte i a v s n (g s.regs) := by
  refine ⟨fun hs ha => ?_, fun e he => ?_⟩
  · obtain ⟨u, hu⟩ := (writable_iff s a v).mp ha
    obtain ⟨hregs, -⟩ := write_frame a v s u hu
    exact ⟨u, storeEffect_of_busWrite hs hu, by rw [h, storeByte_of_busWrite n hu, ← hregs]; rfl⟩
  · rw [h, storeByte_of_fault n he, chain_fault]

/-- An instruction that stores `v` at `a`. -/
theorem storesByte_of_storeByte {i : Instr} {a : Word} {v : Byte} {s : State} {n : Nat}
    (h : exec i s = storeByte a v n s) : StoresByte i a v s n s.regs := by
  refine storesByte_of_storeByte_mapRegs id ?_
  rw [h]
  cases storeByte a v n s <;> rfl

/-- A high-page address lies in the I/O page (30_encoding.md R143), above both buffer windows. -/
theorem highPage_ge (n : Byte) : 0xFF00 ≤ (highPage n).toNat := by
  unfold highPage zext16
  bv_omega

theorem route_highPage (n : Byte) :
    route (highPage n) = .joypad ∨ route (highPage n) = .serial ∨ route (highPage n) = .io := by
  have h := highPage_ge n
  unfold route
  repeat' split
  all_goals first | omega | simp

/-- No read of the high page can fault (40_load8.md R182, R184). -/
theorem readable_highPage (s : State) (n : Byte) : Readable s (highPage n) = true := by
  obtain h | h | h := route_highPage n <;> simp only [Readable, h]

/-- No write of the high page can fault (40_load8.md R183, R185). -/
theorem writable_highPage (s : State) (n : Byte) : Writable s (highPage n) = true := by
  obtain h | h | h := route_highPage n <;> simp only [Writable, h]

theorem decodes_ldRR (dst r : Reg8) : Decodes [0x40#8 ||| (dst.code <<< 3) ||| r.code] (.ldRR dst r) := by
  cases dst <;> cases r <;> exact decodes_one _ _ rfl fun _ _ => rfl

theorem decodes_ldRN (r : Reg8) (n : Byte) : Decodes [0x06#8 ||| (r.code <<< 3), n] (.ldRN r n) := by
  cases r <;> exact decodes_two _ _ _ rfl fun _ => rfl

theorem decodes_ldRHl (r : Reg8) : Decodes [0x46#8 ||| (r.code <<< 3)] (.ldRHl r) := by
  cases r <;> exact decodes_one _ _ rfl fun _ _ => rfl

theorem decodes_ldHlR (r : Reg8) : Decodes [0x70 ||| r.code] (.ldHlR r) := by
  cases r <;> exact decodes_one _ _ rfl fun _ _ => rfl

end Sys2Proof.Machine

namespace Sys2Proof.Load8

open Machine

/-- Settles O34: the register forms are one register update; the memory form is a load at `HL`, and the address is read
from the state before the load. -/
theorem loadRegister : Obligations.LoadRegister := by
  unfold Obligations.LoadRegister
  exact ⟨decodes_ldRR, decodes_ldRN, decodes_ldRHl, fun s dst r n => ⟨rfl, rfl, loadsByte_of_loadReg r rfl⟩⟩

/-- Settles O35: five of the seven are a load of `A` alone, two a load of `A` with an update of `HL` after it. -/
theorem loadAccumulator : Obligations.LoadAccumulator := by
  unfold Obligations.LoadAccumulator
  constructor
  · exact ⟨decodes_one _ _ rfl fun _ _ => rfl, decodes_one _ _ rfl fun _ _ => rfl, decodes_one _ _ rfl fun _ _ => rfl,
      fun _ => decodes_two _ _ _ rfl fun _ => rfl, fun _ _ => decodes_three _ _ _ _ rfl rfl,
      decodes_one _ _ rfl fun _ _ => rfl, decodes_one _ _ rfl fun _ _ => rfl⟩
  · intro s nn n
    exact ⟨⟨readable_highPage s n, readable_highPage s s.regs.c⟩,
      loadsByte_of_loadReg .a rfl, loadsByte_of_loadReg .a rfl, loadsByte_of_loadReg .a rfl,
      loadsByte_of_loadReg .a rfl, loadsByte_of_loadReg .a rfl,
      loadsByte_of_loadReg_mapRegs .a (Regs.setHl (s.regs.hl + 1)) rfl,
      loadsByte_of_loadReg_mapRegs .a (Regs.setHl (s.regs.hl - 1)) rfl⟩

/-- Settles O36: seven of the nine are a store alone, two a store with an update of `HL` after it. -/
theorem storeByte : Obligations.StoreByte := by
  unfold Obligations.StoreByte
  constructor
  · exact ⟨decodes_ldHlR, fun _ => decodes_two _ _ _ rfl fun _ => rfl, decodes_one _ _ rfl fun _ _ => rfl,
      decodes_one _ _ rfl fun _ _ => rfl, decodes_one _ _ rfl fun _ _ => rfl,
      fun _ => decodes_two _ _ _ rfl fun _ => rfl, fun _ _ => decodes_three _ _ _ _ rfl rfl,
      decodes_one _ _ rfl fun _ _ => rfl, decodes_one _ _ rfl fun _ _ => rfl⟩
  · intro s r nn n
    exact ⟨⟨writable_highPage s n, writable_highPage s s.regs.c⟩,
      storesByte_of_storeByte rfl, storesByte_of_storeByte rfl, storesByte_of_storeByte rfl,
      storesByte_of_storeByte rfl, storesByte_of_storeByte rfl, storesByte_of_storeByte rfl,
      storesByte_of_storeByte rfl,
      storesByte_of_storeByte_mapRegs (Regs.setHl (s.regs.hl + 1)) rfl,
      storesByte_of_storeByte_mapRegs (Regs.setHl (s.regs.hl - 1)) rfl⟩

end Sys2Proof.Load8
end

section
/-! Two Router accesses in a row, as a push, a pop and `LD (nn),SP` make them: both complete, or the first that leaves its
buffer is the outcome (20_memory.md R90, R113). -/

namespace Sys2Proof.Machine

theorem busWrite_faults_of_not_writable {a : Word} (v : Byte) {s : State} (h : Writable s a = false) :
    ∃ k, busWrite a v s = .fault (.bankIndexOutOfRange k) := by
  obtain hu | hk := write_outcome a v s
  · exact absurd ((writable_iff s a v).mpr hu) (by simp [h])
  · exact hk

theorem busRead_faults_of_not_readable {a : Word} {s : State} (h : Readable s a = false) :
    ∃ k, busRead a s = .fault (.bankIndexOutOfRange k) := by
  obtain hv | ⟨k, hk⟩ := readByte_outcome a s
  · exact absurd ((readable_iff s a).mpr hv) (by simp [h])
  · exact ⟨k, by simp only [busRead, hk, chain_fault]⟩

section
variable {a b : Word} {s : State} (v w : Byte)
  (hab : 0x8000 ≤ a.toNat ∨ b.toNat < 0xA000 ∨ 0xC000 ≤ b.toNat)
include hab

/-- Two writes to writable addresses complete, unless the first can change the second's bank (`hab`). -/
theorem writes_complete (hs : StateOk s = true) (ha : Writable s a = true) (hb : Writable s b = true) :
    ∃ m u, StoreEffect s m a v ∧ StoreEffect m u b w ∧ busWrite a v s = .next m ∧ busWrite b w m = .next u := by
  obtain ⟨m, hm⟩ := (writable_iff s a v).mp ha
  obtain ⟨u, hu⟩ := (writable_iff m b w).mp ((writable_busWrite a b v hm hab).trans hb)
  have hm_ok : StateOk m = true := stateOk_busWrite a v hs hm
  exact ⟨m, u, storeEffect_of_busWrite hs hm, storeEffect_of_busWrite hm_ok hu, hm, hu⟩

/-- Of two writes one leaves its buffer, and that stops whatever follows them. -/
theorem writes_fault {α : Type} (f : State → Result α) (h : Writable s a = false ∨ Writable s b = false) :
    ∃ k, (chain (busWrite a v s) fun m => chain (busWrite b w m) f) = .fault (.bankIndexOutOfRange k) := by
  obtain ⟨m, hm⟩ | ⟨k, hk⟩ := write_outcome a v s
  · have ha : Writable s a = true := (writable_iff s a v).mpr ⟨m, hm⟩
    have hb : Writable s b = false := h.resolve_left (by simp [ha])
    obtain ⟨k, hk⟩ := busWrite_faults_of_not_writable w ((writable_busWrite a b v hm hab).trans hb)
    exact ⟨k, by rw [hm, chain_next, hk, chain_fault]⟩
  · exact ⟨k, by rw [hk, chain_fault]⟩

end

/-! ### `Push16` and `Pop16` (00_scope.md R10) -/

theorem push16_eq_writes (v : Word) (s : State) :
    push16 v s = chain (busWrite (s.regs.sp - 1) (hiByte v) s) fun m =>
      chain (busWrite (s.regs.sp - 2) (loByte v) m) fun u => .next (u.setSp (s.regs.sp - 2)) := by
  have hsub : s.regs.sp - 1 - 1 = s.regs.sp - 2 := by bv_omega
  unfold push16
  rw [write_setSp]
  cases busWrite (s.regs.sp - 1) (hiByte v) s with
  | next m =>
    simp only [chain_next, State.setSp_regs, hsub]
    exact write_setSp _ _ _ m
  | fault e => rfl
  | refused e => rfl

/-- The first write of a push changes no bank that its second could use: where `SP - 1` is below `0x8000`, `SP - 2` is
too, or wraps to `0xFFFF`. -/
theorem push_addresses (sp : Word) :
    0x8000 ≤ (sp - 1).toNat ∨ (sp - 2).toNat < 0xA000 ∨ 0xC000 ≤ (sp - 2).toNat := by
  bv_omega

theorem push16_completes (v : Word) {s : State} (hs : StateOk s = true) (hp : Pushable s = true) :
    ∃ u, PushEffect s u v ∧ u.regs = s.regs ∧ push16 v s = .next (u.setSp (s.regs.sp - 2)) := by
  obtain ⟨ha, hb⟩ := Bool.and_eq_true_iff.mp hp
  obtain ⟨m, u, hsm, hmu, hm, hu⟩ := writes_complete (hiByte v) (loByte v) (push_addresses s.regs.sp) hs ha hb
  have hregs : u.regs = s.regs := (write_frame _ _ m u hu).1.trans (write_frame _ _ s m hm).1
  exact ⟨u, ⟨m, hsm, hmu⟩, hregs, push16_next v s m u hm hu⟩

theorem push16_stops (v : Word) {s : State} (hp : Pushable s = false) :
    ∃ k, push16 v s = .fault (.bankIndexOutOfRange k) := by
  rw [push16_eq_writes]
  exact writes_fault _ _ (push_addresses s.regs.sp) _ (Bool.and_eq_false_iff.mp hp)

theorem PopsBytes.base_regs {s base : State} {hi lo : Byte} (h : PopsBytes s base hi lo) : base.regs = s.regs := by
  obtain ⟨-, -, rfl⟩ := h
  simp

theorem PopsBytes.pop16_eq {s base : State} {hi lo : Byte} (h : PopsBytes s base hi lo) :
    pop16 s = .next (joinBytes hi lo, base.setSp (s.regs.sp + 2)) := by
  obtain ⟨hlo, hhi, rfl⟩ := h
  exact pop16_next s lo hi hlo hhi

theorem popsBytes_of_poppable {s : State} (h : Poppable s = true) : ∃ base hi lo, PopsBytes s base hi lo := by
  obtain ⟨ha, hb⟩ := Bool.and_eq_true_iff.mp h
  obtain ⟨lo, hlo⟩ := (readable_iff s s.regs.sp).mp ha
  obtain ⟨hi, hhi⟩ := (readable_iff (afterRead s.regs.sp s) (s.regs.sp + 1)).mp (by rw [readable_afterRead, hb])
  exact ⟨_, hi, lo, hlo, hhi, rfl⟩

theorem pop16_stops {s : State} (h : Poppable s = false) : ∃ k, pop16 s = .fault (.bankIndexOutOfRange k) := by
  obtain ⟨lo, hlo⟩ | ⟨k, hk⟩ := readByte_outcome s.regs.sp s
  · have ha : Readable s s.regs.sp = true := (readable_iff s s.regs.sp).mpr ⟨lo, hlo⟩
    have hb : Readable s (s.regs.sp + 1) = false := (Bool.and_eq_false_iff.mp h).resolve_left (by simp [ha])
    have hb' : Readable ((afterRead s.regs.sp s).setSp (s.regs.sp + 1)) (s.regs.sp + 1) = false :=
      (readable_afterRead s.regs.sp (s.regs.sp + 1) s).trans hb
    obtain ⟨k, hk⟩ := busRead_faults_of_not_readable hb'
    exact ⟨k, by simp only [pop16, read_of_readByte _ _ _ hlo, chain_next, hk, chain_fault]⟩
  · exact ⟨_, pop16_fault s _ hk⟩

end Sys2Proof.Machine
end

section
/-! The 16-bit loads and the stack instructions (41_load16.md). -/

namespace Sys2Proof.Machine

theorem decodes_ldRrNn (p : RegPair) (lo hi : Byte) :
    Decodes [0x01#8 ||| (p.code <<< 4), lo, hi] (.ldRrNn p (hi ++ lo)) := by
  cases p <;> exact decodes_three _ _ _ _ rfl rfl

theorem decodes_pushRr (p : StackPair) : Decodes [0xC5#8 ||| (p.code <<< 4)] (.pushRr p) := by
  cases p <;> exact decodes_one _ _ rfl fun _ _ => rfl

theorem decodes_popRr (p : StackPair) : Decodes [0xC1#8 ||| (p.code <<< 4)] (.popRr p) := by
  cases p <;> exact decodes_one _ _ rfl fun _ _ => rfl

/-- A first write of `LD (nn),SP` below `0x8000` is followed by one at `0x8000` or below. -/
theorem ldNnSp_addresses (nn : Word) :
    0x8000 ≤ nn.toNat ∨ (nn + 1).toNat < 0xA000 ∨ 0xC000 ≤ (nn + 1).toNat := by
  bv_omega

theorem exec_pushRr_of_push16 {p : StackPair} {s u : State} {sp : Word} (hregs : u.regs = s.regs)
    (h : push16 (s.regs.getStack p) s = .next (u.setSp sp)) :
    exec (.pushRr p) s = .next { u with regs := { s.regs with sp := sp }, cycles := 16 } := by
  simp only [exec, execPushRr, h, chain_next, State.setSp, State.took, hregs]

theorem exec_pushRr_of_fault {p : StackPair} {s : State} {e : Fault} (h : push16 (s.regs.getStack p) s = .fault e) :
    exec (.pushRr p) s = .fault e := by
  simp only [exec, execPushRr, h, chain_fault]

theorem PopsBytes.exec_popRr {s base : State} {hi lo : Byte} (p : StackPair) (h : PopsBytes s base hi lo) :
    exec (.popRr p) s = .next { base with
      regs := Regs.setStack p (joinBytes hi lo) { s.regs with sp := s.regs.sp + 2 }, cycles := 12 } := by
  simp only [exec, execPopRr, h.pop16_eq, chain_next, State.setSp, State.mapRegs, State.took, h.base_regs]

theorem exec_popRr_of_fault {p : StackPair} {s : State} {e : Fault} (h : pop16 s = .fault e) :
    exec (.popRr p) s = .fault e := by
  simp only [exec, execPopRr, h, chain_fault]

/-- Masking a byte as a write of `AF` does keeps its four flags (10_state.md R22). -/
theorem flagsAre_masked (lo : Byte) :
    FlagsAre (lo &&& 0xF0) (lo.getLsbD 7) (lo.getLsbD 6) (lo.getLsbD 5) (lo.getLsbD 4) :=
  ⟨by simp, by simp, by simp, by simp, by simp [BitVec.extractLsb'_and]⟩

/-- Settles O37: each form is one register update. -/
theorem loadPair : Obligations.LoadPair := by
  unfold Obligations.LoadPair
  exact ⟨decodes_ldRrNn, decodes_one _ _ rfl fun _ _ => rfl, fun s nn => ⟨rfl, rfl, rfl, rfl, rfl⟩⟩

/-- Settles O38: two writes in a row. -/
theorem storeStackPointer : Obligations.StoreStackPointer := by
  unfold Obligations.StoreStackPointer
  refine ⟨fun _ _ => decodes_three _ _ _ _ rfl rfl, fun s nn => ⟨fun hs ha hb => ?_, fun h => ?_⟩⟩
  · obtain ⟨m, u, hsm, hmu, hm, hu⟩ :=
      writes_complete (loByte s.regs.sp) (hiByte s.regs.sp) (ldNnSp_addresses nn) hs ha hb
    exact ⟨m, u, hsm, hmu, by simp only [exec, execLdNnSp, hm, chain_next, hu, State.took]⟩
  · exact writes_fault _ _ (ldNnSp_addresses nn) _ h

/-- Settles O39: both instructions pack the same flags. -/
theorem stackPointerPlusDisplacement : Obligations.StackPointerPlusDisplacement := by
  unfold Obligations.StackPointerPlusDisplacement
  exact ⟨fun _ => decodes_two _ _ _ rfl fun _ => rfl, fun _ => decodes_two _ _ _ rfl fun _ => rfl,
    fun s e => ⟨spFlags s.regs.sp e, flagsAre_packF _ _ _ _, rfl, rfl⟩⟩

/-- Settles O40: a push of the pair, with the outcome of the push as its own. -/
theorem pushStoresPair : Obligations.PushStoresPair := by
  unfold Obligations.PushStoresPair
  refine ⟨decodes_pushRr, fun s p v hv => ⟨fun hs hp => ?_, fun hp => ?_⟩⟩
  · have hpair : v = s.regs.getStack p := by rw [hv]; cases p <;> rfl
    obtain ⟨u, heffect, hregs, hpush⟩ := push16_completes v hs hp
    exact ⟨u, heffect, exec_pushRr_of_push16 hregs (hpair ▸ hpush)⟩
  · obtain ⟨k, hk⟩ := push16_stops (s.regs.getStack p) hp
    exact ⟨k, exec_pushRr_of_fault hk⟩

/-- Settles O41: a pop, whose two bytes each form puts into its pair; `POP AF` masks the low one. -/
theorem popLoadsPair : Obligations.PopLoadsPair := by
  unfold Obligations.PopLoadsPair
  refine ⟨decodes_popRr, fun s => ⟨fun hp => ?_, fun hp p => ?_⟩⟩
  · obtain ⟨base, hi, lo, hpops⟩ := popsBytes_of_poppable hp
    have hexec := fun p => hpops.exec_popRr p
    simp only [Regs.setStack, Regs.setBc, Regs.setDe, Regs.setHl, Regs.setAf, hiByte_joinBytes, loByte_joinBytes] at hexec
    exact ⟨base, hi, lo, hpops, hexec .bc, hexec .de, hexec .hl, lo &&& 0xF0, flagsAre_masked lo, hexec .af⟩
  · obtain ⟨k, hk⟩ := pop16_stops hp
    exact ⟨k, exec_popRr_of_fault hk⟩

end Sys2Proof.Machine
end

section
/-! What the 8-bit operations compute, in the terms of 42_alu8.md: one rule for each, so that no proof about an instruction
opens a flag computation. -/

namespace Sys2Proof.Machine

/-- The result of an operation: its value, its four flags, and `F[3:0] = 0` (10_state.md R22). -/
def Flagged.Is (r : Flagged) (v : Byte) (z n h c : Bool) : Prop := r.val = v ∧ FlagsAre r.f z n h c

theorem is_packF (v : Byte) (z n h c : Bool) : Flagged.Is ⟨v, packF z n h c⟩ v z n h c :=
  ⟨rfl, flagsAre_packF z n h c⟩

theorem addWith_is (a v : Byte) (c : Nat) :
    (addWith a v c).Is (BitVec.ofNat 8 (a.toNat + v.toNat + c)) (decide ((a.toNat + v.toNat + c) % 256 = 0)) false
      (decide (a.toNat % 16 + v.toNat % 16 + c > 0xF)) (decide (a.toNat + v.toNat + c > 0xFF)) :=
  is_packF _ _ _ _ _

theorem subWith_is (a v : Byte) (c : Nat) :
    (subWith a v c).Is (BitVec.ofInt 8 ((a.toNat : Int) - v.toNat - c))
      (decide (((a.toNat : Int) - v.toNat - c) % 256 = 0)) true (decide (a.toNat % 16 < v.toNat % 16 + c))
      (decide (a.toNat < v.toNat + c)) :=
  is_packF _ _ _ _ _

theorem aluSub_is (a v f : Byte) :
    (aluSub a v f).Is (BitVec.ofInt 8 ((a.toNat : Int) - v.toNat)) (decide (((a.toNat : Int) - v.toNat) % 256 = 0)) true
      (decide (a.toNat % 16 < v.toNat % 16)) (decide (a.toNat < v.toNat)) := by
  simpa only [aluSub, Int.ofNat_zero, Int.sub_zero, Nat.add_zero] using subWith_is a v 0

/-- Two bytes differ by 0 modulo 256 only where they are equal: their difference lies between -255 and 255. -/
theorem sub_emod_eq_zero_iff (a v : Byte) : ((a.toNat : Int) - v.toNat) % 256 = 0 ↔ a = v := by
  rw [← BitVec.toNat_inj]
  have ha := a.isLt
  have hv := v.isLt
  omega

/-- `CP` has the flags of `SUB`, Z of them an equality (42_alu8.md R218). -/
theorem aluCp_is (a v f : Byte) :
    (aluCp a v f).Is a (decide (a = v)) true (decide (a.toNat % 16 < v.toNat % 16)) (decide (a.toNat < v.toNat)) := by
  obtain ⟨-, hf⟩ := aluSub_is a v f
  simp only [sub_emod_eq_zero_iff] at hf
  exact ⟨rfl, hf⟩

theorem incByte_is (w f : Byte) :
    (incByte w f).Is (w + 1) (decide ((w.toNat + 1) % 256 = 0)) false (decide (w.toNat % 16 = 0xF)) (f.getLsbD 4) := by
  have hz : w + 1 = 0 ↔ (w.toNat + 1) % 256 = 0 := by bv_omega
  simp only [← hz]
  exact is_packF _ _ _ _ _

theorem decByte_is (w f : Byte) :
    (decByte w f).Is (w - 1) (decide ((w.toNat + 255) % 256 = 0)) true (decide (w.toNat % 16 = 0)) (f.getLsbD 4) := by
  have hz : w - 1 = 0 ↔ (w.toNat + 255) % 256 = 0 := by bv_omega
  simp only [← hz]
  exact is_packF _ _ _ _ _

/-- `DAA` after an addition (42_alu8.md R221): both tests look at the original `A`. -/
theorem aluDaa_is_of_add {a f : Byte} (hn : f.getLsbD 6 = false) {adj : Nat}
    (hadj : adj = (if f.getLsbD 5 = true ∨ a.toNat % 16 > 0x09 then 0x06 else 0)
      + (if f.getLsbD 4 = true ∨ a.toNat > 0x99 then 0x60 else 0)) :
    (aluDaa a f).Is (BitVec.ofNat 8 (a.toNat + adj)) (decide ((a.toNat + adj) % 256 = 0)) false false
      (decide (f.getLsbD 4 = true ∨ a.toNat > 0x99)) := by
  have hadjust : daaAdjust a f = (adj, decide (f.getLsbD 4 = true ∨ a.toNat > 0x99)) := by
    have hbranch : flagN f = false := hn
    simp [daaAdjust, hbranch, flagH, flagC, nibble, hadj]
  simp only [aluDaa, flagN, hn, hadjust, ofNat_eq_zero, Bool.false_eq_true, if_false]
  exact is_packF _ _ _ _ _

/-- `DAA` after a subtraction (42_alu8.md R221). -/
theorem aluDaa_is_of_sub {a f : Byte} (hn : f.getLsbD 6 = true) {adj : Nat}
    (hadj : adj = (if f.getLsbD 5 = true then 0x06 else 0) + (if f.getLsbD 4 = true then 0x60 else 0)) :
    (aluDaa a f).Is (BitVec.ofInt 8 ((a.toNat : Int) - adj)) (decide (((a.toNat : Int) - adj) % 256 = 0)) true false
      (f.getLsbD 4) := by
  have hadjust : daaAdjust a f = (adj, f.getLsbD 4) := by
    subst hadj
    exact if_pos hn
  simp only [aluDaa, flagN, hn, hadjust, ofInt_eq_zero, if_true]
  exact is_packF _ _ _ _ _

/-- The complement of a byte is its exclusive or with `0xFF` (42_alu8.md R222). -/
theorem aluCpl_is (a f : Byte) : (aluCpl a f).Is (a ^^^ 0xFF) (f.getLsbD 7) true true (f.getLsbD 4) :=
  ⟨(BitVec.xor_allOnes (x := a)).symm, flagsAre_packF _ _ _ _⟩

end Sys2Proof.Machine
end

section
/-! The operand forms of the 8-bit operations: what an instruction does, from the result of its operation (42_alu8.md
R210). The forms that write back serve the rotates and shifts too. -/

namespace Sys2Proof.Machine

/-- An accumulator operation whose operand has been read, `base` being the state after the read. -/
theorem setsAF_of_setAccF {i : Instr} {s base : State} {cost : Nat} {r : Flagged} {acc : Byte} {z n h c : Bool}
    (hregs : base.regs = s.regs) (hexec : exec i s = .next ((setAccF r base).took cost)) (hr : r.Is acc z n h c) :
    SetsAF i s base cost acc z n h c := by
  obtain ⟨rfl, hf⟩ := hr
  exact ⟨r.f, hf, by rw [hexec, ← hregs]; rfl⟩

theorem accHl_of_readByte (g : Byte → Byte → Byte → Flagged) {s : State} {v : Byte}
    (h : readByte s.regs.hl s = .next v) :
    accHl g s = .next ((setAccF (g s.regs.a v s.regs.f) (afterRead s.regs.hl s)).took 8) := by
  simp only [accHl, readHl, read_of_readByte _ s v h, chain_next]

theorem accHl_of_fault (g : Byte → Byte → Byte → Flagged) {s : State} {e : Fault}
    (h : readByte s.regs.hl s = .fault e) : accHl g s = .fault e := by
  simp only [accHl, readHl, busRead, h, chain_fault]

theorem updateHl_of_fault (g : Byte → Byte → Flagged) (n : Nat) {s : State} {e : Fault}
    (h : readByte s.regs.hl s = .fault e) : updateHl g n s = .fault e := by
  simp only [updateHl, readHl, busRead, h, chain_fault]

theorem updateHl_of_busWrite (g : Byte → Byte → Flagged) (n : Nat) {s u : State} {w : Byte}
    (hw : readByte s.regs.hl s = .next w)
    (hu : busWrite s.regs.hl (g w s.regs.f).val (afterRead s.regs.hl s) = .next u) :
    updateHl g n s = .next { u with regs := { s.regs with f := (g w s.regs.f).f }, cycles := n } := by
  have hregs : u.regs = s.regs := (write_frame _ _ _ u hu).1.trans (afterRead_regs _ s)
  simp only [updateHl, readHl, read_of_readByte _ s w hw, chain_next, hu, State.mapRegs, State.took, hregs]

theorem setsRegF_of_updateReg (g : Byte → Byte → Flagged) {i : Instr} {r : Reg8} {s : State} {cost : Nat} {v : Byte}
    {z n h c : Bool} (hexec : exec i s = updateReg g r cost s) (hg : (g (s.regs.get8 r) s.regs.f).Is v z n h c) :
    SetsRegF i r s cost v z n h c := by
  obtain ⟨rfl, hf⟩ := hg
  exact ⟨_, hf, hexec⟩

/-- The byte at `HL` is read, and then the result is written there. -/
theorem setsHlF_of_updateHl (g : Byte → Byte → Flagged) {i : Instr} {s : State} {cost : Nat} {w v : Byte}
    {z n h c : Bool} (hexec : exec i s = updateHl g cost s) (hs : StateOk s = true)
    (hread : readByte s.regs.hl s = .next w) (hwrite : Writable s s.regs.hl = true)
    (hg : (g w s.regs.f).Is v z n h c) : SetsHlF i s cost v z n h c := by
  obtain ⟨rfl, hf⟩ := hg
  have hs' : StateOk (afterRead s.regs.hl s) = true := (inv_afterRead _ s).trans hs
  obtain ⟨u, hu⟩ := (writable_iff _ _ (g w s.regs.f).val).mp ((writable_afterRead s.regs.hl s.regs.hl s).trans hwrite)
  exact ⟨_, u, hf, storeEffect_of_busWrite hs' hu, hexec.trans (updateHl_of_busWrite g cost hread hu)⟩

theorem readFaultStops_of_updateHl (g : Byte → Byte → Flagged) {i : Instr} {s : State} {cost : Nat}
    (hexec : exec i s = updateHl g cost s) : ReadFaultStops i s.regs.hl s :=
  fun _ he => hexec.trans (updateHl_of_fault g cost he)

/-! ### The rows of the accumulator operations (30_encoding.md R148) -/

/-- The codes of the eight rows. -/
theorem aluRow_cases {y : Byte} (hy : y < 8) :
    y = 0 ∨ y = 1 ∨ y = 2 ∨ y = 3 ∨ y = 4 ∨ y = 5 ∨ y = 6 ∨ y = 7 := by
  bv_omega

theorem decodes_aluReg {y : Byte} (hy : y < 8) (r : Reg8) :
    Decodes [0x80#8 ||| (y <<< 3) ||| r.code] (aluReg y.toNat (some r)) := by
  rcases aluRow_cases hy with rfl | rfl | rfl | rfl | rfl | rfl | rfl | rfl <;>
    cases r <;> exact decodes_one _ _ rfl fun _ _ => rfl

theorem decodes_aluHl {y : Byte} (hy : y < 8) : Decodes [0x86#8 ||| (y <<< 3)] (aluReg y.toNat none) := by
  rcases aluRow_cases hy with rfl | rfl | rfl | rfl | rfl | rfl | rfl | rfl <;>
    exact decodes_one _ _ rfl fun _ _ => rfl

theorem decodes_aluImm {y : Byte} (hy : y < 8) (n : Byte) : Decodes [0xC6#8 ||| (y <<< 3), n] (aluImm y.toNat n) := by
  rcases aluRow_cases hy with rfl | rfl | rfl | rfl | rfl | rfl | rfl | rfl <;>
    exact decodes_two _ _ _ rfl fun _ => rfl

/-- Row `y`, when the meaning of its three forms is the operation `g`, and `hg` says what `g` computes. -/
theorem accForms_aluRow {y : Byte} (hy : y < 8) (g : Byte → Byte → Byte → Flagged) {acc : State → Byte → Byte}
    {z n h c : State → Byte → Bool}
    (hreg : ∀ r s, exec (aluReg y.toNat (some r)) s = accReg g r s)
    (hmem : ∀ s, exec (aluReg y.toNat none) s = accHl g s)
    (himm : ∀ v s, exec (aluImm y.toNat v) s = accImm g v s)
    (hg : ∀ s v, (g s.regs.a v s.regs.f).Is (acc s v) (z s v) (n s v) (h s v) (c s v)) :
    AccForms (fun r => aluReg y.toNat (some r)) (aluReg y.toNat none) (aluImm y.toNat) y fun i s base cost v =>
      SetsAF i s base cost (acc s v) (z s v) (n s v) (h s v) (c s v) := by
  refine ⟨decodes_aluReg hy, decodes_aluHl hy, decodes_aluImm hy, fun s => ⟨fun r => ?_, fun v => ?_, fun hr => ?_, ?_⟩⟩
  · exact setsAF_of_setAccF rfl (hreg r s) (hg s _)
  · exact setsAF_of_setAccF rfl (himm v s) (hg s v)
  · obtain ⟨v, hv⟩ := (readable_iff s s.regs.hl).mp hr
    exact ⟨v, hv, setsAF_of_setAccF (afterRead_regs _ s) ((hmem s).trans (accHl_of_readByte g hv)) (hg s v)⟩
  · exact fun e he => (hmem s).trans (accHl_of_fault g he)

end Sys2Proof.Machine
end

section
/-! 8-bit arithmetic and logic (42_alu8.md). -/

namespace Sys2Proof.Machine

/-- Settles O42: `ADD` is the addition with carry 0, `ADC` the one with flag C. -/
theorem addAndAdc : Obligations.AddAndAdc := by
  unfold Obligations.AddAndAdc
  exact ⟨accForms_aluRow (y := 0) (by decide) aluAdd (fun _ _ => rfl) (fun _ => rfl) (fun _ _ => rfl) fun s v =>
      addWith_is s.regs.a v 0,
    accForms_aluRow (y := 1) (by decide) aluAdc (fun _ _ => rfl) (fun _ => rfl) (fun _ _ => rfl) fun s v =>
      carryIn_eq s ▸ addWith_is s.regs.a v (carryIn s.regs.f)⟩

/-- Settles O43: `SUB` and `CP` are the subtraction with borrow 0, `SBC` the one with flag C. -/
theorem subtractions : Obligations.Subtractions := by
  unfold Obligations.Subtractions
  exact ⟨accForms_aluRow (y := 2) (by decide) aluSub (fun _ _ => rfl) (fun _ => rfl) (fun _ _ => rfl) fun s v =>
      aluSub_is s.regs.a v s.regs.f,
    accForms_aluRow (y := 3) (by decide) aluSbc (fun _ _ => rfl) (fun _ => rfl) (fun _ _ => rfl) fun s v =>
      carryIn_eq s ▸ subWith_is s.regs.a v (carryIn s.regs.f),
    accForms_aluRow (y := 7) (by decide) aluCp (fun _ _ => rfl) (fun _ => rfl) (fun _ _ => rfl) fun s v =>
      aluCp_is s.regs.a v s.regs.f⟩

/-- Settles O44: each operation packs Z of its result and three fixed flags. -/
theorem andXorOr : Obligations.AndXorOr := by
  unfold Obligations.AndXorOr
  exact ⟨accForms_aluRow (y := 4) (by decide) aluAnd (fun _ _ => rfl) (fun _ => rfl) (fun _ _ => rfl) fun _ _ =>
      is_packF _ _ _ _ _,
    accForms_aluRow (y := 5) (by decide) aluXor (fun _ _ => rfl) (fun _ => rfl) (fun _ _ => rfl) fun _ _ =>
      is_packF _ _ _ _ _,
    accForms_aluRow (y := 6) (by decide) aluOr (fun _ _ => rfl) (fun _ => rfl) (fun _ _ => rfl) fun _ _ =>
      is_packF _ _ _ _ _⟩

theorem decodes_incR (r : Reg8) : Decodes [0x04#8 ||| (r.code <<< 3)] (.incR r) := by
  cases r <;> exact decodes_one _ _ rfl fun _ _ => rfl

theorem decodes_decR (r : Reg8) : Decodes [0x05#8 ||| (r.code <<< 3)] (.decR r) := by
  cases r <;> exact decodes_one _ _ rfl fun _ _ => rfl

/-- Settles O45: the memory forms of both instructions read the same byte, and each writes its own result. -/
theorem incAndDec : Obligations.IncAndDec := by
  unfold Obligations.IncAndDec
  refine ⟨decodes_incR, decodes_one _ _ rfl fun _ _ => rfl, decodes_decR, decodes_one _ _ rfl fun _ _ => rfl,
    fun s => ⟨fun r => ⟨?_, ?_⟩, fun hs hr hw => ?_, ?_, ?_⟩⟩
  · exact setsRegF_of_updateReg incByte rfl (incByte_is _ _)
  · exact setsRegF_of_updateReg decByte rfl (decByte_is _ _)
  · obtain ⟨w, hread⟩ := (readable_iff s s.regs.hl).mp hr
    exact ⟨w, hread, setsHlF_of_updateHl incByte rfl hs hread hw (incByte_is w _),
      setsHlF_of_updateHl decByte rfl hs hread hw (decByte_is w _)⟩
  · exact readFaultStops_of_updateHl incByte rfl
  · exact readFaultStops_of_updateHl decByte rfl

/-- Settles O46: flag N selects the branch, whose adjustment the statement names. -/
theorem decimalAdjust : Obligations.DecimalAdjust := by
  unfold Obligations.DecimalAdjust
  refine ⟨decodes_one _ _ rfl fun _ _ => rfl, fun s => ⟨fun hn adj hadj => ?_, fun hn adj hadj => ?_⟩⟩
  · exact setsAF_of_setAccF rfl rfl (aluDaa_is_of_add hn hadj)
  · exact setsAF_of_setAccF rfl rfl (aluDaa_is_of_sub hn hadj)

/-- Settles O47: `SCF` and `CCF` write `A` back as it was. -/
theorem complementAndCarry : Obligations.ComplementAndCarry := by
  unfold Obligations.ComplementAndCarry
  refine ⟨decodes_one _ _ rfl fun _ _ => rfl, decodes_one _ _ rfl fun _ _ => rfl, decodes_one _ _ rfl fun _ _ => rfl,
    fun s => ⟨?_, ?_, ?_⟩⟩
  · exact setsAF_of_setAccF rfl rfl (aluCpl_is _ _)
  · exact setsAF_of_setAccF (r := ⟨s.regs.a, scfFlags s.regs.f⟩) rfl rfl (is_packF _ _ _ _ _)
  · exact setsAF_of_setAccF (r := ⟨s.regs.a, ccfFlags s.regs.f⟩) rfl rfl (is_packF _ _ _ _ _)

end Sys2Proof.Machine
end

section
/-! 16-bit arithmetic (43_alu16.md). -/

namespace Sys2Proof.Machine

theorem decodes_addHlRr (p : RegPair) : Decodes [0x09#8 ||| (p.code <<< 4)] (.addHlRr p) := by
  cases p <;> exact decodes_one _ _ rfl fun _ _ => rfl

theorem decodes_incRr (p : RegPair) : Decodes [0x03#8 ||| (p.code <<< 4)] (.incRr p) := by
  cases p <;> exact decodes_one _ _ rfl fun _ _ => rfl

theorem decodes_decRr (p : RegPair) : Decodes [0x0B#8 ||| (p.code <<< 4)] (.decRr p) := by
  cases p <;> exact decodes_one _ _ rfl fun _ _ => rfl

/-- `ADD HL,rr`, from what its operand is (R240). -/
theorem exec_addHlRr_of_getPair {p : RegPair} {s : State} {v : Word} (hv : v = s.regs.getPair p) :
    exec (.addHlRr p) s = .next { s with
      regs := { s.regs.setHl (s.regs.hl + v) with f := addHlFlags s.regs.hl v s.regs.f }, cycles := 8 } := by
  subst hv
  rfl

/-- `INC rr` and `DEC rr` are one update, the pair plus a displacement, of the pair alone (R241, R242). -/
theorem exec_addToPair {delta : Word} {i : RegPair → Instr} (h : (delta = 1 ∧ i = .incRr) ∨ (delta = -1 ∧ i = .decRr))
    (p : RegPair) (s : State) :
    exec (i p) s = .next { s with regs := s.regs.setPair p (s.regs.getPair p + delta), cycles := 8 } := by
  obtain ⟨rfl, rfl⟩ | ⟨rfl, rfl⟩ := h
  · rfl
  · rw [← sub_eq_add_neg]
    rfl

/-- Settles O48: `ADD HL,rr` writes `HL` and the packed flags; the other two are one update at each of the four pairs. -/
theorem pairArithmetic : Obligations.PairArithmetic := by
  unfold Obligations.PairArithmetic
  refine ⟨⟨decodes_addHlRr, fun s p hl v hhl hv => ?_⟩, decodes_incRr, decodes_decRr, fun s delta i h => ?_⟩
  · have hpair : v = s.regs.getPair p := by rw [hv]; cases p <;> rfl
    subst hhl
    exact ⟨addHlFlags s.regs.hl v s.regs.f, flagsAre_packF _ _ _ _, exec_addHlRr_of_getPair hpair⟩
  · exact ⟨exec_addToPair h .bc s, exec_addToPair h .de s, exec_addToPair h .hl s, exec_addToPair h .sp s⟩

end Sys2Proof.Machine
end

section
/-! What the rotates and shifts compute, in the terms of 44_rotate_shift_bit.md, and how the prefixed rows decode: one rule
for each, as for the accumulator operations. -/

namespace Sys2Proof.Machine

theorem shiftInLow_getLsbD (w : Byte) (i : Nat) : shiftInLow w (w.getLsbD i) = w.extractLsb' 0 7 ++ w.extractLsb' i 1 :=
  congrArg (w.extractLsb' 0 7 ++ ·) (ofBool_getLsbD w i)

theorem shiftInHigh_getLsbD (w : Byte) (i : Nat) : shiftInHigh (w.getLsbD i) w = w.extractLsb' i 1 ++ w.extractLsb' 1 7 :=
  congrArg (· ++ w.extractLsb' 1 7) (ofBool_getLsbD w i)

/-- An operation of the group is settled by its result; Z follows from it (R255 to R262). -/
theorem is_rotFlagged {res v : Byte} (c : Bool) (h : res = v) : (rotFlagged res c).Is v (decide (v = 0)) false false c :=
  h ▸ is_packF _ _ _ _ _

theorem rotRlc_is (w f : Byte) :
    (rotRlc w f).Is (w.extractLsb' 0 7 ++ w.extractLsb' 7 1)
      (decide (w.extractLsb' 0 7 ++ w.extractLsb' 7 1 = 0)) false false (w.getLsbD 7) :=
  is_rotFlagged _ (shiftInLow_getLsbD w 7)

theorem rotRrc_is (w f : Byte) :
    (rotRrc w f).Is (w.extractLsb' 0 1 ++ w.extractLsb' 1 7)
      (decide (w.extractLsb' 0 1 ++ w.extractLsb' 1 7 = 0)) false false (w.getLsbD 0) :=
  is_rotFlagged _ (shiftInHigh_getLsbD w 0)

theorem rotRl_is (w f : Byte) :
    (rotRl w f).Is (w.extractLsb' 0 7 ++ BitVec.ofBool (f.getLsbD 4))
      (decide (w.extractLsb' 0 7 ++ BitVec.ofBool (f.getLsbD 4) = 0)) false false (w.getLsbD 7) :=
  is_rotFlagged _ rfl

theorem rotRr_is (w f : Byte) :
    (rotRr w f).Is (BitVec.ofBool (f.getLsbD 4) ++ w.extractLsb' 1 7)
      (decide (BitVec.ofBool (f.getLsbD 4) ++ w.extractLsb' 1 7 = 0)) false false (w.getLsbD 0) :=
  is_rotFlagged _ rfl

/-- An accumulator rotate keeps the result and the carry of the prefixed operation (R266). -/
theorem forceZClear_is {r : Flagged} {v : Byte} {z n h c : Bool} (hr : r.Is v z n h c) :
    (forceZClear r).Is v false false false c := by
  obtain ⟨hv, -, -, -, hc, -⟩ := hr
  subst hv hc
  exact is_packF _ _ _ _ _

theorem decodes_prefixed (op2 : Byte) : Decodes [0xCB, op2] (decodePrefixed op2) :=
  decodes_two _ _ _ rfl (assemble_prefixed op2)

theorem decodes_rotReg {y : Byte} (hy : y < 8) (r : Reg8) :
    Decodes [0xCB, (y <<< 3) ||| r.code] (decodeRot y.toNat (some r)) := by
  rcases aluRow_cases hy with rfl | rfl | rfl | rfl | rfl | rfl | rfl | rfl <;> cases r <;> exact decodes_prefixed _

theorem decodes_rotHl {y : Byte} (hy : y < 8) : Decodes [0xCB, (y <<< 3) ||| 6] (decodeRot y.toNat none) := by
  rcases aluRow_cases hy with rfl | rfl | rfl | rfl | rfl | rfl | rfl | rfl <;> exact decodes_prefixed _

/-- Row `y` of the rotates and shifts, when the meaning of its two forms is the operation `g`, and `hg` says what `g`
computes (R250). -/
theorem rotForms_row {y : Byte} (hy : y < 8) (g : Byte → Byte → Flagged) {res : Byte → Bool → Byte} {out : Byte → Bool}
    (hreg : ∀ r s, exec (decodeRot y.toNat (some r)) s = updateReg g r 8 s)
    (hmem : ∀ s, exec (decodeRot y.toNat none) s = updateHl g 16 s)
    (hg : ∀ w f, (g w f).Is (res w (f.getLsbD 4)) (decide (res w (f.getLsbD 4) = 0)) false false (out w)) :
    RotForms (fun r => decodeRot y.toNat (some r)) (decodeRot y.toNat none) y res out := by
  refine ⟨decodes_rotReg hy, decodes_rotHl hy, fun s => ⟨fun r => ?_, fun hs hr hw => ?_, ?_⟩⟩
  · exact setsRegF_of_updateReg g (hreg r s) (hg _ _)
  · obtain ⟨w, hread⟩ := (readable_iff s s.regs.hl).mp hr
    exact ⟨w, hread, setsHlF_of_updateHl g (hmem s) hs hread hw (hg w _)⟩
  · exact readFaultStops_of_updateHl g (hmem s)

/-! ### The rows of the bit operations (30_encoding.md R154) -/

theorem decodePrefixed_bitReg (b : BitVec 3) (r : Reg8) :
    decodePrefixed (0x40#8 ||| (b.setWidth 8 <<< 3) ||| r.code) = .bitBR b r
      ∧ decodePrefixed (0x80#8 ||| (b.setWidth 8 <<< 3) ||| r.code) = .resBR b r
      ∧ decodePrefixed (0xC0#8 ||| (b.setWidth 8 <<< 3) ||| r.code) = .setBR b r := by
  revert b
  cases r <;> decide

theorem decodePrefixed_bitHl (b : BitVec 3) :
    decodePrefixed (0x46#8 ||| (b.setWidth 8 <<< 3)) = .bitBHl b
      ∧ decodePrefixed (0x86#8 ||| (b.setWidth 8 <<< 3)) = .resBHl b
      ∧ decodePrefixed (0xC6#8 ||| (b.setWidth 8 <<< 3)) = .setBHl b := by
  revert b
  decide

theorem decodes_of_decodePrefixed {op2 : Byte} {i : Instr} (h : decodePrefixed op2 = i) : Decodes [0xCB, op2] i :=
  h ▸ decodes_prefixed op2

/-! ### The memory forms of the bit operations -/

theorem readHl_of_readByte {s : State} {w : Byte} (h : readByte s.regs.hl s = .next w) :
    readHl s = .next (w, afterRead s.regs.hl s) :=
  read_of_readByte _ s w h

theorem readHl_of_fault {s : State} {e : Fault} (h : readByte s.regs.hl s = .fault e) : readHl s = .fault e := by
  simp only [readHl, busRead, h, chain_fault]

/-- `BIT b,(HL)` writes back the `A` it found, in the state after its read. -/
theorem exec_bitBHl_of_readByte (b : BitVec 3) {s : State} {w : Byte} (h : readByte s.regs.hl s = .next w) :
    exec (.bitBHl b) s
      = .next ((setAccF ⟨s.regs.a, bitFlags b w s.regs.f⟩ (afterRead s.regs.hl s)).took 12) := by
  simp only [exec, execBitBHl, readHl_of_readByte h, chain_next, setAccF, State.mapRegs, afterRead_regs]

theorem readFaultStops_bitBHl (b : BitVec 3) (s : State) : ReadFaultStops (.bitBHl b) s.regs.hl s := fun _ he => by
  simp only [exec, execBitBHl, readHl_of_fault he, chain_fault]

/-- The byte at `HL` is read, and then its image is written there, whether it changed or not (R264, R265). -/
theorem rewriteHl_stores (g : Byte → Byte) {i : Instr} {s : State} {w : Byte} (hexec : exec i s = rewriteHl g s)
    (hs : StateOk s = true) (hread : readByte s.regs.hl s = .next w) (hwrite : Writable s s.regs.hl = true) :
    ∃ u, StoreEffect (afterRead s.regs.hl s) u s.regs.hl (g w) ∧ exec i s = .next { u with cycles := 16 } := by
  have hs' : StateOk (afterRead s.regs.hl s) = true := (inv_afterRead _ s).trans hs
  obtain ⟨u, hu⟩ := (writable_iff _ _ (g w)).mp ((writable_afterRead s.regs.hl s.regs.hl s).trans hwrite)
  refine ⟨u, storeEffect_of_busWrite hs' hu, hexec.trans ?_⟩
  simp only [rewriteHl, readHl_of_readByte hread, chain_next, hu, State.took]

theorem readFaultStops_of_rewriteHl (g : Byte → Byte) {i : Instr} {s : State} (hexec : exec i s = rewriteHl g s) :
    ReadFaultStops i s.regs.hl s := fun _ he => by
  simp only [hexec, rewriteHl, readHl_of_fault he, chain_fault]

end Sys2Proof.Machine
end

section
/-! Rotates, shifts and bit operations (44_rotate_shift_bit.md). -/

namespace Sys2Proof.Machine

/-- Settles O49: each is the prefixed rotate of `A` with Z cleared; the bit rotated in through carry is bit 4 of `F`. -/
theorem accumulatorRotates : Obligations.AccumulatorRotates := by
  unfold Obligations.AccumulatorRotates
  refine ⟨decodes_one _ _ rfl fun _ _ => rfl, decodes_one _ _ rfl fun _ _ => rfl, decodes_one _ _ rfl fun _ _ => rfl,
    decodes_one _ _ rfl fun _ _ => rfl, fun s => ?_⟩
  have hcarry := ofBool_getLsbD s.regs.f 4
  refine ⟨?_, ?_, ?_, ?_⟩
  · exact setsAF_of_setAccF rfl rfl (forceZClear_is (rotRlc_is _ _))
  · exact setsAF_of_setAccF rfl rfl (forceZClear_is (rotRrc_is _ _))
  · exact setsAF_of_setAccF rfl rfl (hcarry ▸ forceZClear_is (rotRl_is _ _))
  · exact setsAF_of_setAccF rfl rfl (hcarry ▸ forceZClear_is (rotRr_is _ _))

/-- Settles O50: rows 0 to 3 of the prefixed set. -/
theorem rotates : Obligations.Rotates := by
  unfold Obligations.Rotates
  exact ⟨rotForms_row (y := 0) (by decide) rotRlc (fun _ _ => rfl) (fun _ => rfl) rotRlc_is,
    rotForms_row (y := 1) (by decide) rotRrc (fun _ _ => rfl) (fun _ => rfl) rotRrc_is,
    rotForms_row (y := 2) (by decide) rotRl (fun _ _ => rfl) (fun _ => rfl) rotRl_is,
    rotForms_row (y := 3) (by decide) rotRr (fun _ _ => rfl) (fun _ => rfl) rotRr_is⟩

/-- Settles O51: rows 4 to 7 of the prefixed set; `SRA` shifts its own bit 7 in, the other shifts a 0. -/
theorem shifts : Obligations.Shifts := by
  unfold Obligations.Shifts
  exact ⟨rotForms_row (y := 4) (by decide) rotSla (fun _ _ => rfl) (fun _ => rfl) fun _ _ => is_rotFlagged _ rfl,
    rotForms_row (y := 5) (by decide) rotSra (fun _ _ => rfl) (fun _ => rfl) fun w _ =>
      is_rotFlagged _ (shiftInHigh_getLsbD w 7),
    rotForms_row (y := 6) (by decide) rotSwap (fun _ _ => rfl) (fun _ => rfl) fun _ _ => is_rotFlagged _ rfl,
    rotForms_row (y := 7) (by decide) rotSrl (fun _ _ => rfl) (fun _ => rfl) fun _ _ => is_rotFlagged _ rfl⟩

/-- Settles O52: both forms write back `A` as it was, and pack Z from the bit and C from the old `F`. -/
theorem bitTest : Obligations.BitTest := by
  unfold Obligations.BitTest
  refine ⟨fun b r => decodes_of_decodePrefixed (decodePrefixed_bitReg b r).1,
    fun b => decodes_of_decodePrefixed (decodePrefixed_bitHl b).1, fun s b => ⟨fun r => ?_, fun hr => ?_, ?_⟩⟩
  · exact setsAF_of_setAccF (r := ⟨s.regs.a, bitFlags b (s.regs.get8 r) s.regs.f⟩) rfl rfl (is_packF _ _ _ _ _)
  · obtain ⟨w, hread⟩ := (readable_iff s s.regs.hl).mp hr
    exact ⟨w, hread, setsAF_of_setAccF (afterRead_regs _ s) (exec_bitBHl_of_readByte b hread) (is_packF _ _ _ _ _)⟩
  · exact readFaultStops_bitBHl b s

/-- Settles O53: the register forms are one register update; the memory forms read the same byte, and each writes its own
result. -/
theorem resetAndSetBit : Obligations.ResetAndSetBit := by
  unfold Obligations.ResetAndSetBit
  refine ⟨fun b r => ?_, fun b => ?_, fun s b => ⟨fun r => ⟨rfl, rfl⟩, fun hs hr hw => ?_, ?_, ?_⟩⟩
  · obtain ⟨-, hres, hset⟩ := decodePrefixed_bitReg b r
    exact ⟨decodes_of_decodePrefixed hres, decodes_of_decodePrefixed hset⟩
  · obtain ⟨-, hres, hset⟩ := decodePrefixed_bitHl b
    exact ⟨decodes_of_decodePrefixed hres, decodes_of_decodePrefixed hset⟩
  · obtain ⟨w, hread⟩ := (readable_iff s s.regs.hl).mp hr
    exact ⟨w, hread, rewriteHl_stores (resBit b) rfl hs hread hw, rewriteHl_stores (setBit b) rfl hs hread hw⟩
  · exact readFaultStops_of_rewriteHl (resBit b) rfl
  · exact readFaultStops_of_rewriteHl (setBit b) rfl

end Sys2Proof.Machine
end

section
/-! The conditional transfers, each reduced to what it does when taken and when not (45_control_flow.md R280), and the two
stack operations of the calls and returns. -/

namespace Sys2Proof.Machine

section
variable {cc : Cond} {s : State}

/-! ### Taken: the unconditional transfer, at its cost but for `RET cc` -/

theorem exec_jpCcNn_taken (nn : Word) (h : CondTrue cc s.regs.f) : exec (.jpCcNn cc nn) s = exec (.jpNn nn) s :=
  if_pos ((condHolds_iff cc _).mpr h)

theorem exec_jrCcE_taken (e : Byte) (h : CondTrue cc s.regs.f) : exec (.jrCcE cc e) s = exec (.jrE e) s :=
  if_pos ((condHolds_iff cc _).mpr h)

theorem exec_callCcNn_taken (nn : Word) (h : CondTrue cc s.regs.f) : exec (.callCcNn cc nn) s = exec (.callNn nn) s :=
  if_pos ((condHolds_iff cc _).mpr h)

theorem exec_retCc_taken (h : CondTrue cc s.regs.f) : exec (.retCc cc) s = returnTaking 20 s :=
  if_pos ((condHolds_iff cc _).mpr h)

/-! ### Not taken: the cost alone -/

theorem exec_jpCcNn_not_taken (nn : Word) (h : ¬CondTrue cc s.regs.f) :
    exec (.jpCcNn cc nn) s = .next { s with cycles := 12 } :=
  if_neg (mt (condHolds_iff cc _).mp h)

theorem exec_jrCcE_not_taken (e : Byte) (h : ¬CondTrue cc s.regs.f) :
    exec (.jrCcE cc e) s = .next { s with cycles := 8 } :=
  if_neg (mt (condHolds_iff cc _).mp h)

theorem exec_callCcNn_not_taken (nn : Word) (h : ¬CondTrue cc s.regs.f) :
    exec (.callCcNn cc nn) s = .next { s with cycles := 12 } :=
  if_neg (mt (condHolds_iff cc _).mp h)

theorem exec_retCc_not_taken (h : ¬CondTrue cc s.regs.f) : exec (.retCc cc) s = .next { s with cycles := 8 } :=
  if_neg (mt (condHolds_iff cc _).mp h)

end

/-! ### The push of a call and the pop of a return -/

theorem callTo_of_push16 {s u : State} {sp : Word} (target : Word) (n : Nat) (hregs : u.regs = s.regs)
    (h : push16 s.regs.pc s = .next (u.setSp sp)) :
    callTo target n s = .next { u with regs := { s.regs with sp := sp, pc := target }, cycles := n } := by
  simp only [callTo, h, chain_next, State.setSp, State.setPc, State.took, hregs]

theorem callTo_of_fault {s : State} {e : Fault} (target : Word) (n : Nat) (h : push16 s.regs.pc s = .fault e) :
    callTo target n s = .fault e := by
  simp only [callTo, h, chain_fault]

theorem PopsBytes.returnTaking_eq {s base : State} {hi lo : Byte} (n : Nat) (h : PopsBytes s base hi lo) :
    returnTaking n s
      = .next { base with regs := { s.regs with sp := s.regs.sp + 2, pc := joinBytes hi lo }, cycles := n } := by
  simp only [returnTaking, h.pop16_eq, chain_next, State.setSp, State.setPc, State.took, h.base_regs]

theorem returnTaking_of_fault {s : State} {e : Fault} (n : Nat) (h : pop16 s = .fault e) :
    returnTaking n s = .fault e := by
  simp only [returnTaking, h, chain_fault]

/-! ### The encodings with a condition or a target in the byte (30_encoding.md R147) -/

theorem decodes_jpCcNn (cc : Cond) (lo hi : Byte) :
    Decodes [0xC2#8 ||| (cc.code <<< 3), lo, hi] (.jpCcNn cc (hi ++ lo)) := by
  cases cc <;> exact decodes_three _ _ _ _ rfl rfl

theorem decodes_jrCcE (cc : Cond) (e : Byte) : Decodes [0x20#8 ||| (cc.code <<< 3), e] (.jrCcE cc e) := by
  cases cc <;> exact decodes_two _ _ _ rfl fun _ => rfl

theorem decodes_callCcNn (cc : Cond) (lo hi : Byte) :
    Decodes [0xC4#8 ||| (cc.code <<< 3), lo, hi] (.callCcNn cc (hi ++ lo)) := by
  cases cc <;> exact decodes_three _ _ _ _ rfl rfl

theorem decodes_retCc (cc : Cond) : Decodes [0xC0#8 ||| (cc.code <<< 3)] (.retCc cc) := by
  cases cc <;> exact decodes_one _ _ rfl fun _ _ => rfl

theorem decodes_rstT (y : BitVec 3) :
    Decodes [0xC7#8 ||| (y.setWidth 8 <<< 3)] (.rstT (y.setWidth 8 <<< 3)) := by
  obtain rfl | rfl | rfl | rfl | rfl | rfl | rfl | rfl :
      y = 0 ∨ y = 1 ∨ y = 2 ∨ y = 3 ∨ y = 4 ∨ y = 5 ∨ y = 6 ∨ y = 7 := by bv_omega
  all_goals exact decodes_one _ _ rfl fun _ _ => rfl

end Sys2Proof.Machine
end

section
/-! Jumps, calls and returns (45_control_flow.md). -/

namespace Sys2Proof.Machine

/-- Settles O54: a conditional jump that is taken is the unconditional one. -/
theorem jumps : Obligations.Jumps := by
  unfold Obligations.Jumps
  refine ⟨⟨fun _ _ => decodes_three _ _ _ _ rfl rfl, decodes_one _ _ rfl fun _ _ => rfl,
    fun _ => decodes_two _ _ _ rfl fun _ => rfl, decodes_jpCcNn, decodes_jrCcE⟩,
    fun s cc nn e => ⟨rfl, rfl, rfl, fun hcc => ⟨?_, ?_⟩, fun hcc => ⟨?_, ?_⟩⟩⟩
  · exact exec_jpCcNn_taken nn hcc
  · exact exec_jrCcE_taken e hcc
  · exact exec_jpCcNn_not_taken nn hcc
  · exact exec_jrCcE_not_taken e hcc

/-- Settles O55: the three instructions share one push of `PC`, with its effect or its fault. -/
theorem calls : Obligations.Calls := by
  unfold Obligations.Calls
  refine ⟨fun _ _ => decodes_three _ _ _ _ rfl rfl, decodes_callCcNn, decodes_rstT,
    fun s cc nn t => ⟨fun hs hp => ?_, exec_callCcNn_not_taken nn, fun hp => ?_⟩⟩
  · obtain ⟨u, heffect, hregs, hpush⟩ := push16_completes s.regs.pc hs hp
    have hcall : exec (.callNn nn) s = _ := callTo_of_push16 nn 24 hregs hpush
    exact ⟨u, heffect, hcall, fun hcc => (exec_callCcNn_taken nn hcc).trans hcall, callTo_of_push16 _ 16 hregs hpush⟩
  · obtain ⟨k, hk⟩ := push16_stops s.regs.pc hp
    have hcall : exec (.callNn nn) s = _ := callTo_of_fault nn 24 hk
    exact ⟨⟨k, hcall⟩, fun hcc => ⟨k, (exec_callCcNn_taken nn hcc).trans hcall⟩, k, callTo_of_fault _ 16 hk⟩

/-- Settles O56: both instructions pop `PC` alike, at their own cost. -/
theorem returns : Obligations.Returns := by
  unfold Obligations.Returns
  refine ⟨decodes_one _ _ rfl fun _ _ => rfl, decodes_retCc,
    fun s cc => ⟨fun hp => ?_, exec_retCc_not_taken, fun hp => ?_⟩⟩
  · obtain ⟨base, hi, lo, hpops⟩ := popsBytes_of_poppable hp
    exact ⟨base, hi, lo, hpops, hpops.returnTaking_eq 16,
      fun hcc => (exec_retCc_taken hcc).trans (hpops.returnTaking_eq 20)⟩
  · obtain ⟨k, hk⟩ := pop16_stops hp
    exact ⟨⟨k, returnTaking_of_fault 16 hk⟩, fun hcc => ⟨k, (exec_retCc_taken hcc).trans (returnTaking_of_fault 20 hk)⟩⟩

end Sys2Proof.Machine
end

section
/-! Processor control (46_cpu_control.md). -/

namespace Sys2Proof.Machine

/-- Settles O59: the byte `0x00` decodes alone, and the arm of `NOP` sets the cycle count only (R300). -/
theorem nopChangesNothing : Obligations.NopChangesNothing := by
  unfold Obligations.NopChangesNothing
  exact ⟨decodes_one _ _ rfl fun _ _ => rfl, fun _ => rfl⟩

end Sys2Proof.Machine
end

section
/-! Decoding and encoding undo each other (30_encoding.md): each instruction's encoding decodes to it, and what a first byte
assembles encodes to the bytes that were read. -/

namespace Sys2Proof

open Machine

/-- An instruction with a word operand, low byte first (30_encoding.md R141). -/
theorem decodes_wordBytes {op : Byte} (i : Word → Instr) (h : ∀ lo hi : Byte, Decodes [op, lo, hi] (i (hi ++ lo)))
    (nn : Word) : Decodes (op :: wordBytes nn) (i nn) := by
  have hnn : (hiByte nn ++ loByte nn : Word) = nn := joinBytes_hiByte_loByte nn
  have hdecodes := h (loByte nn) (hiByte nn)
  rwa [hnn] at hdecodes

/-- The memory forms of the bit operations, with the operand code `6` as a field of its own (30_encoding.md R154). -/
theorem decodes_bitHl (b : BitVec 3) :
    Decodes (prefixedBytes 0x40 (b.setWidth 8) 6) (.bitBHl b)
      ∧ Decodes (prefixedBytes 0x80 (b.setWidth 8) 6) (.resBHl b)
      ∧ Decodes (prefixedBytes 0xC0 (b.setWidth 8) 6) (.setBHl b) := by
  obtain ⟨hbit, hres, hset⟩ := decodePrefixed_bitHl b
  have hcode : ∀ base y : Byte, base ||| y ||| 6 = base ||| 6 ||| y := fun _ _ => by ac_rfl
  refine ⟨?_, ?_, ?_⟩ <;> rw [prefixedBytes, hcode]
  · exact decodes_of_decodePrefixed hbit
  · exact decodes_of_decodePrefixed hres
  · exact decodes_of_decodePrefixed hset

/-- A well-formed target of `RST` is a three-bit number times 8 (45_control_flow.md R291). -/
theorem decodes_rstT_of_wellFormed {t : Byte} (ht : (Instr.rstT t).wellFormed = true) :
    Decodes (encode (.rstT t)) (.rstT t) := by
  have htarget : ∀ t : Byte, rstTargetOk t = true → t = (t.extractLsb' 3 3).setWidth 8 <<< 3 := by decide
  have h := htarget t ht
  rw [h]
  exact decodes_rstT _

/-- The encoding of a well-formed instruction decodes to it. -/
theorem decodes_encode {i : Instr} (hi : i.wellFormed = true) : Decodes (encode i) i := by
  cases i
  case rstT t => exact decodes_rstT_of_wellFormed hi
  case ldRrNn p nn => exact decodes_wordBytes (.ldRrNn p) (decodes_ldRrNn p) nn
  case jpCcNn cc nn => exact decodes_wordBytes (.jpCcNn cc) (decodes_jpCcNn cc) nn
  case callCcNn cc nn => exact decodes_wordBytes (.callCcNn cc) (decodes_callCcNn cc) nn
  case ldNnSp nn => exact decodes_wordBytes .ldNnSp (fun _ _ => decodes_three _ _ _ _ rfl rfl) nn
  case jpNn nn => exact decodes_wordBytes .jpNn (fun _ _ => decodes_three _ _ _ _ rfl rfl) nn
  case callNn nn => exact decodes_wordBytes .callNn (fun _ _ => decodes_three _ _ _ _ rfl rfl) nn
  case ldNnA nn => exact decodes_wordBytes .ldNnA (fun _ _ => decodes_three _ _ _ _ rfl rfl) nn
  case ldANn nn => exact decodes_wordBytes .ldANn (fun _ _ => decodes_three _ _ _ _ rfl rfl) nn
  case incRr p => exact decodes_incRr p
  case decRr p => exact decodes_decRr p
  case addHlRr p => exact decodes_addHlRr p
  case pushRr p => exact decodes_pushRr p
  case popRr p => exact decodes_popRr p
  case jrCcE cc e => exact decodes_jrCcE cc e
  case retCc cc => exact decodes_retCc cc
  case incR r => exact decodes_incR r
  case decR r => exact decodes_decR r
  case ldRN r n => exact decodes_ldRN r n
  case ldRR dst r => exact decodes_ldRR dst r
  case ldRHl r => exact decodes_ldRHl r
  case ldHlR r => exact decodes_ldHlR r
  case addAR r => exact decodes_aluReg (y := 0) (by decide) r
  case adcAR r => exact decodes_aluReg (y := 1) (by decide) r
  case subR r => exact decodes_aluReg (y := 2) (by decide) r
  case sbcAR r => exact decodes_aluReg (y := 3) (by decide) r
  case andR r => exact decodes_aluReg (y := 4) (by decide) r
  case xorR r => exact decodes_aluReg (y := 5) (by decide) r
  case orR r => exact decodes_aluReg (y := 6) (by decide) r
  case cpR r => exact decodes_aluReg (y := 7) (by decide) r
  case rlcR r => exact decodes_rotReg (y := 0) (by decide) r
  case rrcR r => exact decodes_rotReg (y := 1) (by decide) r
  case rlR r => exact decodes_rotReg (y := 2) (by decide) r
  case rrR r => exact decodes_rotReg (y := 3) (by decide) r
  case slaR r => exact decodes_rotReg (y := 4) (by decide) r
  case sraR r => exact decodes_rotReg (y := 5) (by decide) r
  case swapR r => exact decodes_rotReg (y := 6) (by decide) r
  case srlR r => exact decodes_rotReg (y := 7) (by decide) r
  case bitBR b r => exact decodes_of_decodePrefixed (decodePrefixed_bitReg b r).1
  case resBR b r => exact decodes_of_decodePrefixed (decodePrefixed_bitReg b r).2.1
  case setBR b r => exact decodes_of_decodePrefixed (decodePrefixed_bitReg b r).2.2
  case bitBHl b => exact (decodes_bitHl b).1
  case resBHl b => exact (decodes_bitHl b).2.1
  case setBHl b => exact (decodes_bitHl b).2.2
  case rlcHl | rrcHl | rlHl | rrHl | slaHl | sraHl | swapHl | srlHl => exact decodes_prefixed _
  case ldHlN | stop | jrE | addAN | adcAN | subN | sbcAN | andN | xorN | orN | cpN | ldhNA | ldhAN | addSpE | ldHlSpE =>
    exact decodes_two _ _ _ rfl fun _ => rfl
  all_goals exact decodes_one _ _ rfl fun _ _ => rfl

/-- Settles O1: the encoding decodes to the instruction whatever follows. -/
theorem decodeEncode : Obligations.DecodeEncode := by
  unfold Obligations.DecodeEncode
  exact fun i rest hi => decodes_encode hi rest

/-- Settles O3: every word has the length its first byte fixes, and assembles to its instruction. -/
theorem sampleWords : Obligations.SampleWords := by
  unfold Obligations.SampleWords
  exact ⟨decodes_one _ _ rfl fun _ _ => rfl, decodes_two _ _ _ rfl fun _ => rfl, decodes_three _ _ _ _ rfl rfl,
    decodes_one _ _ rfl fun _ _ => rfl, decodes_one _ _ rfl fun _ _ => rfl, decodes_two _ _ _ rfl fun _ => rfl,
    decodes_one _ _ rfl fun _ _ => rfl, decodes_prefixed _, decodes_prefixed _, decodes_three _ _ _ _ rfl rfl,
    decodes_one _ _ rfl fun _ _ => rfl, decodes_one _ _ rfl fun _ _ => rfl, decodes_one _ _ rfl fun _ _ => rfl⟩

/-- Settles O4: each undefined byte assembles alone, whatever follows it, and its meaning is the fault. -/
theorem undefinedBytesStop : Obligations.UndefinedBytesStop := by
  unfold Obligations.UndefinedBytesStop
  intro s
  refine ⟨?_, ?_, ?_, ?_, ?_, ?_, ?_, ?_, ?_, ?_, ?_⟩ <;> exact ⟨decodes_one _ _ rfl fun _ _ => rfl, rfl⟩

/-- The operand bytes of an instruction of `n` bytes, as the encoder lays them out. -/
def operandBytes (n : Nat) (b1 b2 : Byte) : List Byte :=
  match n with
  | 1 => []
  | 2 => [b1]
  | _ => wordBytes (joinBytes b2 b1)

/-- The operand bytes are those read after the first byte. -/
theorem operandBytes_eq_take (op b1 b2 : Byte) : operandBytes (lengthOf op) b1 b2 = [b1, b2].take (lengthOf op - 1) := by
  obtain h | h | h := lengthOf_cases op <;> simp [h, operandBytes, wordBytes]

/-- The prefixed set: what the second byte decodes to is well formed and encodes to it (30_encoding.md R154). -/
theorem encode_decodePrefixed (b1 : Byte) :
    (decodePrefixed b1).wellFormed = true ∧ encode (decodePrefixed b1) = [0xCB, b1] := by
  revert b1
  decide

/-- What a first byte assembles is well formed and encodes to the first byte and its operand bytes. -/
theorem encode_assemble_operandBytes (op b1 b2 : Byte) :
    (assemble op b1 b2).wellFormed = true
      ∧ encode (assemble op b1 b2) = op :: operandBytes (lengthOf op) b1 b2 := by
  refine byte_cases (P := fun op => (assemble op b1 b2).wellFormed = true
    ∧ encode (assemble op b1 b2) = op :: operandBytes (lengthOf op) b1 b2) (fun n hn => ?_) op
  obtain hlt | rfl | hgt := Nat.lt_trichotomy n 0xCB
  · interval_cases n <;> exact ⟨rfl, rfl⟩
  · exact encode_decodePrefixed b1
  · interval_cases n <;> exact ⟨rfl, rfl⟩

/-- What a first byte assembles encodes to the bytes it was assembled from. -/
theorem encode_assemble (op b1 b2 : Byte) :
    encode (assemble op b1 b2) = op :: [b1, b2].take (lengthOf op - 1) := by
  rw [← operandBytes_eq_take]
  exact (encode_assemble_operandBytes op b1 b2).2

/-- The operand bytes that decoding hands to `assemble`, read back from a list that is long enough. -/
theorem take_getD_append_drop {tail : List Byte} {n : Nat} (hn : n ≤ 2) (hlen : n ≤ tail.length) :
    [tail.getD 0 0, tail.getD 1 0].take n ++ tail.drop n = tail := by
  match tail, n with
  | _, 0 => simp
  | _ :: _, 1 => simp
  | _ :: _ :: _, 2 => simp

/-- Settles O2: enough bytes decode by the definition; what decoding gives is assembled from the bytes read, and those it
encodes to. -/
theorem encodeDecode : Obligations.EncodeDecode := by
  unfold Obligations.EncodeDecode
  refine fun op bytes => ⟨fun hlen => ?_, fun i rest h => ?_⟩
  · have hnot : ¬bytes.length < lengthOf op - 1 := by omega
    exact ⟨_, _, if_neg hnot⟩
  · obtain ⟨_, _, hbytes, hlen, rfl, rfl⟩ := decode_ok _ _ _ h
    obtain ⟨rfl, rfl⟩ := List.cons.inj hbytes
    have hlength : 1 ≤ lengthOf op ∧ lengthOf op ≤ 3 := by have := lengthOf_cases op; omega
    obtain ⟨hwf, -⟩ := encode_assemble_operandBytes op (bytes.getD 0 0) (bytes.getD 1 0)
    rw [encode_assemble]
    refine ⟨hwf, congrArg (op :: ·) (take_getD_append_drop (by omega) (by omega)), ?_⟩
    simp
    omega

end Sys2Proof
end

section
/-! What one call of `step()` can do, said once over its three cases (60_exceptions.md R330): Router accesses and register
updates, with updates of `IME`, `ime_pending` and `run_state` between them. -/

namespace Sys2Proof.Machine

/-- `t` is `s` after such effects and such updates. -/
inductive Reaches (s : State) : State → Prop
  | refl : Reaches s s
  | effects {t u : State} : Reaches s t → Effects t u → Reaches s u
  | control {t : State} (ime pend : Bool) (run : RunState) :
      Reaches s t → Reaches s { t with ime := ime, imePending := pend, runState := run }

/-- The fault of an access made in the course of a call. -/
def ReachesFault (s : State) (k : Nat) : Prop :=
  ∃ u a, Reaches s u
    ∧ (readByte a u = .fault (.bankIndexOutOfRange k) ∨ ∃ v, busWrite a v u = .fault (.bankIndexOutOfRange k))

/-- A predicate on states that every single update and access of a call keeps. -/
structure Kept (P : State → Prop) : Prop where
  regs : ∀ {t : State} (g : Regs) (n : Nat), P t → FlagsKept t.regs g → P { t with regs := g, cycles := n }
  asks : ∀ {t : State} (n : Nat), P t → P { t with joypQueries := n }
  stores : ∀ {t u : State} (a : Word) (v : Byte), P t → busWrite a v t = .next u → P u
  control : ∀ {t : State} (ime pend : Bool) (run : RunState),
    P t → P { t with ime := ime, imePending := pend, runState := run }

theorem Kept.effects {P : State → Prop} (hk : Kept P) {s t : State} (h : Effects s t) (hs : P s) : P t := by
  induction h with
  | none => exact hs
  | regs g n _ hf ih => exact hk.regs g n ih hf
  | @asks t a _ ih =>
    obtain ⟨q, hq⟩ := afterRead_eq a t
    rw [hq]
    exact hk.asks q ih
  | stores a v _ hw ih => exact hk.stores a v ih hw

/-- What every update and access keeps, a call keeps. -/
theorem Kept.reaches {P : State → Prop} (hk : Kept P) {s t : State} (h : Reaches s t) (hs : P s) : P t := by
  induction h with
  | refl => exact hs
  | effects _ he ih => exact hk.effects he ih
  | control ime pend run _ ih => exact hk.control ime pend run ih

theorem Reaches.trans {s t u : State} (h : Reaches s t) (h2 : Reaches t u) : Reaches s u := by
  induction h2 with
  | refl => exact h
  | effects _ he ih => exact ih.effects he
  | control ime pend run _ ih => exact ih.control ime pend run

theorem reaches_of_effects {s t : State} (h : Effects s t) : Reaches s t := Reaches.refl.effects h

theorem reaches_wake (s : State) : Reaches s (wake s) := Reaches.refl.control s.ime s.imePending .running

theorem reaches_promote (began : Bool) (s : State) : Reaches s (promote began s) := by
  rw [promote_eq]
  exact Reaches.refl.control _ _ s.runState

/-- The acknowledgement of an interrupt is a Router write of `IF` (60_exceptions.md R331). -/
theorem reaches_acknowledge (b : Nat) (s : State) : Reaches s (acknowledge b s) :=
  (Reaches.refl.control false false s.runState).effects ((Effects.none _).stores 0xFF0F _ rfl)

/-- An operation that runs from a state the call has reached completes, or stops on the fault of an access. -/
theorem Runs.outcome {α : Type} {s q : State} {post : α → Prop} {r : Result α} (hq : Reaches s q) (h : Runs q post r) :
    (∃ x, r = .next x ∧ post x) ∨ ∃ k, r = .fault (.bankIndexOutOfRange k) ∧ ReachesFault s k := by
  cases r with
  | next x => exact .inl ⟨x, rfl, h⟩
  | fault e =>
    obtain ⟨k, rfl, u, a, hu, hfault⟩ := h
    exact .inr ⟨k, rfl, u, a, hq.effects hu, hfault⟩
  | refused e => exact h.elim

/-! ### One instruction -/

/-- What is left of an instruction's meaning when it completes. -/
structure ExecLeaves (i : Instr) (s t : State) : Prop where
  reaches : Reaches s t
  cost : t.cycles ∈ costs
  ime : t.ime = true → s.ime = true ∨ i = .reti
  halted : t.runState = .halted → s.runState = .halted ∨ i = .halt

theorem ExecLeaves.of_effects {i : Instr} {s t : State} (h : Effects s t) (hc : t.cycles ∈ costs) :
    ExecLeaves i s t := by
  obtain ⟨hime, -, hrun⟩ := h.frame
  exact ⟨reaches_of_effects h, hc, fun ht => .inl (hime ▸ ht), fun ht => .inl (hrun ▸ ht)⟩

/-- An instruction that changes `IME`, `ime_pending` and `run_state` only, in 4 cycles. -/
theorem execLeaves_control {i : Instr} (s : State) (ime pend : Bool) (run : RunState)
    (hime : ime = true → s.ime = true ∨ i = .reti) (hrun : run = .halted → s.runState = .halted ∨ i = .halt) :
    ExecLeaves i s (State.took 4 { s with ime := ime, imePending := pend, runState := run }) :=
  ⟨(reaches_of_effects ((Effects.none s).took 4)).control ime pend run, by simp [costs], hime, hrun⟩

/-- The eleven undefined bytes (30_encoding.md R157). -/
def undefinedBytes : List Byte := [0xD3, 0xDB, 0xDD, 0xE3, 0xE4, 0xEB, 0xEC, 0xED, 0xF4, 0xFC, 0xFD]

theorem exec_outcome (i : Instr) (s : State) :
    Runs s (ExecLeaves i s) (exec i s)
      ∨ ∃ op, encode i = [op] ∧ op ∈ undefinedBytes ∧ exec i s = .fault (.invalidOpcode op) := by
  rcases exec_cases i s with h | rfl | rfl | rfl | rfl | hundefined
  · exact .inl (h.weaken fun t ht => .of_effects ht.1 ht.2)
  · -- `HALT`
    exact .inl (execLeaves_control s s.ime s.imePending .halted .inl fun _ => .inr rfl)
  · -- `DI`
    exact .inl (execLeaves_control s false false s.runState (fun h => by cases h) .inl)
  · -- `EI`
    exact .inl (execLeaves_control s s.ime true s.runState .inl .inl)
  · -- `RETI`, an ordinary `RET` with `IME` set
    refine .inl ?_
    have hret : Ordinary s (execRet s) := ordinary_returnTaking 16 s (by decide)
    show Runs s _ (execReti s)
    rw [execReti_eq]
    refine hret.chain ?_
    rintro u ⟨heffects, hcost⟩
    obtain ⟨-, -, hrun⟩ := heffects.frame
    exact ⟨(reaches_of_effects heffects).control true u.imePending u.runState, hcost, fun _ => .inr rfl,
      fun hu => .inl (hrun ▸ hu)⟩
  · exact .inr hundefined

/-! ### One call -/

/-- What is left of a call that completes. -/
structure StepLeaves (s t : State) : Prop where
  reaches : Reaches s t
  cost : t.cycles ∈ costs
  ime : s.ime = false → t.ime = true → s.imePending = true ∨ readByte s.regs.pc s = .next 0xD9
  halted : t.runState = .halted →
    idles s = true ∨ (runsInstruction s = true ∧ readByte s.regs.pc s = .next 0x76)

/-- The outcomes of a call of `step()`: it completes, an access of it faults, or it finds an undefined byte at `PC`. -/
inductive StepOutcome (s : State) : Result State → Prop
  | next {t : State} (h : StepLeaves s t) : StepOutcome s (.next t)
  | access {k : Nat} (h : ReachesFault s k) : StepOutcome s (.fault (.bankIndexOutOfRange k))
  | undefined {op : Byte} (hruns : runsInstruction s = true) (hpc : readByte s.regs.pc s = .next op)
      (hop : op ∈ undefinedBytes) : StepOutcome s (.fault (.invalidOpcode op))

theorem stepOutcome_takeInterrupt (s : State) : StepOutcome s (takeInterrupt (wake s)) := by
  have hq : Reaches s (acknowledge (lowestBit (pending (wake s))) (wake s)) :=
    (reaches_wake s).trans (reaches_acknowledge _ _)
  obtain ⟨t, ht, heffects, hcycles, -⟩ | ⟨k, hk, hfault⟩ := (runs_takeInterrupt (wake s)).outcome hq
  · obtain ⟨hime, -, hrun⟩ := heffects.frame
    rw [ht]
    exact .next ⟨hq.effects heffects, by simp [hcycles, costs], fun _ h => (Bool.false_ne_true (hime.symm.trans h)).elim,
      fun h => by cases hrun.symm.trans h⟩
  · rw [hk]
    exact .access hfault

/-- An instruction that is assembled from a first byte, and leaves it in its encoding. -/
theorem eq_of_encode_assemble {op op' b1 b2 : Byte} (h : encode (assemble op b1 b2) = [op']) : op' = op := by
  rw [encode_assemble] at h
  exact (List.cons.inj h).1.symm

/-- The meaning of the instruction at `PC`, and the promotion after it. -/
theorem stepLeaves_of_execLeaves {s q u : State} {op b1 b2 : Byte} (hruns : runsInstruction s = true)
    (hop : readByte s.regs.pc s = .next op) (hfetch : Effects (wake s) q)
    (hexec : ExecLeaves (assemble op b1 b2) q u) : StepLeaves s (promote s.imePending u) := by
  obtain ⟨hime, -, hrun⟩ := hfetch.frame
  have hq : Reaches s q := (reaches_wake s).effects hfetch
  have hreaches := (hq.trans hexec.reaches).trans (reaches_promote s.imePending u)
  rw [promote_eq] at hreaches ⊢
  refine ⟨hreaches, hexec.cost, fun hs ht => ?_, fun ht => .inr ⟨hruns, ?_⟩⟩
  · obtain hu | hpromoted := Bool.or_eq_true_iff.mp ht
    · obtain hbefore | hreti := hexec.ime hu
      · exact absurd (hime.symm.trans hbefore) (by simp [hs])
      · exact .inr (assemble_eq_reti _ _ _ hreti ▸ hop)
    · exact .inl (Bool.and_eq_true_iff.mp hpromoted).1
  · obtain hbefore | hhalt := hexec.halted ht
    · cases hrun.symm.trans hbefore
    · exact assemble_eq_halt _ _ _ hhalt ▸ hop

theorem stepOutcome_instructionStep {s : State} (hruns : runsInstruction s = true) :
    StepOutcome s (instructionStep (wake s)) := by
  unfold instructionStep
  obtain ⟨⟨i, q⟩, hfetch, heffects, op, b1, b2, hop, rfl⟩ | ⟨k, hk, hfault⟩ :=
    (runs_fetchInstr (wake s)).outcome (reaches_wake s)
  · rw [hfetch, chain_next]
    obtain hexec | ⟨op', hencode, hop', hexec⟩ := exec_outcome (assemble op b1 b2) q
    · obtain ⟨u, hu, hleaves⟩ | ⟨k, hk, hfault⟩ := hexec.outcome ((reaches_wake s).effects heffects)
      · rw [hu, chain_next]
        exact .next (stepLeaves_of_execLeaves hruns hop heffects hleaves)
      · rw [hk]
        exact .access hfault
    · rw [hexec, chain_fault]
      obtain rfl := eq_of_encode_assemble hencode
      exact .undefined hruns hop hop'
  · rw [hk]
    exact .access hfault

theorem step_outcome (s : State) : StepOutcome s (step s) := by
  obtain ⟨hidles, h⟩ | ⟨-, -, h⟩ | ⟨hruns, h⟩ := step_cases s <;> rw [h]
  · exact .next ⟨reaches_of_effects ((Effects.none s).took 4), by simp [costs],
      fun hs ht => (Bool.false_ne_true (hs.symm.trans ht)).elim, fun _ => .inl hidles⟩
  · exact stepOutcome_takeInterrupt s
  · exact stepOutcome_instructionStep hruns

/-- What a completed call has done. -/
theorem step_next {s t : State} (h : step s = .next t) : StepLeaves s t := by
  have houtcome := step_outcome s
  rw [h] at houtcome
  cases houtcome with
  | next hleaves => exact hleaves

end Sys2Proof.Machine
end

section
/-! What every call keeps: the invariant, the cartridge's properties, the dirty signal, and when `IME` and the halted state
arise (10_state.md, 60_exceptions.md). -/

namespace Sys2Proof.Machine

/-! ### The invariant -/

theorem kept_stateOk : Kept fun s => StateOk s = true where
  regs g n hs hf := stateOk_setRegs _ g n hf hs
  asks _ hs := hs
  stores a v hs hw := stateOk_busWrite a v hs hw
  control _ _ _ hs := hs

/-- Settles O11: each update and each access of a call keeps the invariant. -/
theorem stepKeepsInv : Obligations.StepKeepsInv := by
  unfold Obligations.StepKeepsInv
  exact fun s t hs h => kept_stateOk.reaches (step_next h).reaches hs

theorem stateOk_act {p : Params} {m : Move} {s t : State} (hs : StateOk s = true) (h : act p m s = .next t) :
    StateOk t = true := by
  cases m with
  | step => exact stepKeepsInv s t hs h
  | request mask =>
    cases h
    exact stateOk_busWrite 0xFF0F (ifReg s ||| mask.setWidth 8) hs rfl
  | overwrite a v =>
    cases h
    exact stateOk_envOverwrite p a v hs
  | flush r =>
    cases h
    cases r <;> exact hs

/-- Settles O12: induction over the moves, each of which keeps the invariant. -/
theorem movesKeepInv : Obligations.MovesKeepInv := by
  unfold Obligations.MovesKeepInv
  intro p moves
  induction moves with
  | nil =>
    intro s t hs h
    cases h
    exact hs
  | cons m moves ih =>
    intro s t hs h
    obtain ⟨u, hu, ht⟩ := chain_eq_next.mp h
    exact ih u t (stateOk_act hs hu) ht

/-- Settles O13: the state after reset is a literal, whose stores list no cell. -/
theorem resetInv : Obligations.ResetInv := by
  unfold Obligations.ResetInv
  decide

/-! ### What no call changes -/

/-- What `StepKeepsImmutable` says a call leaves as it was. -/
def SameImmutable (s t : State) : Prop :=
  t.cart.variant = s.cart.variant ∧ t.cart.romBankCount = s.cart.romBankCount
    ∧ t.cart.ramBankCount = s.cart.ramBankCount ∧ t.cart.rom = s.cart.rom ∧ t.cart.ram.len = s.cart.ram.len
    ∧ (∀ a : Word, a.toNat < 0x8000 → flatByte a t = flatByte a s)
    ∧ t.divCounter = s.divCounter ∧ t.timerCounter = s.timerCounter

/-- A write reaches the flat array at `0x8000` and above only (20_memory.md R92, R101). -/
theorem flatByte_busWrite_of_low {a b : Word} {v : Byte} {s u : State} (hb : b.toNat < 0x8000)
    (h : busWrite a v s = .next u) : flatByte b u = flatByte b s := by
  rcases write_next a v s u h with ⟨-, rfl⟩ | ⟨ha, -, -, -, rfl⟩ | ⟨-, -, -, rfl⟩ | ⟨-, -, -, -, -, -, rfl⟩ | ⟨-, rfl⟩
    | ⟨-, rfl⟩
  case inr.inl => exact loadCell_storeCell_other .flat s.flat a.toNat b.toNat v (by omega)
  all_goals rfl

theorem kept_sameImmutable (s : State) : Kept (SameImmutable s) where
  regs _ _ ht _ := ht
  asks _ ht := ht
  stores a v ht hw := by
    obtain ⟨hvariant, hroms, hrams, hrom, hlen, hflat, hdiv, htimer⟩ := ht
    obtain ⟨-, -, -, -, hdiv', htimer', -, -, hvariant', hroms', hrams', hrom', hlen'⟩ := write_frame _ _ _ _ hw
    exact ⟨hvariant'.trans hvariant, hroms'.trans hroms, hrams'.trans hrams, hrom'.trans hrom, hlen'.trans hlen,
      fun b hb => (flatByte_busWrite_of_low hb hw).trans (hflat b hb), hdiv'.trans hdiv, htimer'.trans htimer⟩
  control _ _ _ ht := ht

theorem sameImmutable_of_reaches {s t : State} (h : Reaches s t) : SameImmutable s t :=
  (kept_sameImmutable s).reaches h ⟨rfl, rfl, rfl, rfl, rfl, fun _ _ => rfl, rfl, rfl⟩

/-- Settles O15: a Router write changes none of it, and nothing else of a call could. -/
theorem stepKeepsImmutable : Obligations.StepKeepsImmutable := by
  unfold Obligations.StepKeepsImmutable
  exact fun s t h => sameImmutable_of_reaches (step_next h).reaches

/-! ### The dirty signal -/

/-- `t` carries the dirty signal on from `s`: raised for every change of the cartridge RAM, and never cleared. -/
def DirtyCarried (s t : State) : Prop :=
  (s.dirty = true → t.dirty = true) ∧ (t.dirty = false → t.cart.ram = s.cart.ram)
    ∧ (s.dirty = false → t.dirty = true → s.cart.variant = .bankSwitching)

theorem dirtyCarried_of_same {s t : State} (hd : t.dirty = s.dirty) (hram : t.cart.ram = s.cart.ram) :
    DirtyCarried s t :=
  ⟨hd.trans, fun _ => hram, fun hs ht => absurd (hd.symm.trans ht) (by simp [hs])⟩

/-- A write that changes the cartridge RAM raises `dirty` (20_memory.md R104). -/
theorem dirtyCarried_busWrite {a : Word} {v : Byte} {s u : State} (h : busWrite a v s = .next u) : DirtyCarried s u := by
  rcases write_next a v s u h with ⟨-, rfl⟩ | ⟨-, -, -, -, rfl⟩ | ⟨-, -, -, rfl⟩ | ⟨-, -, hv, -, -, -, rfl⟩ | ⟨-, rfl⟩
    | ⟨-, rfl⟩
  case inl => exact dirtyCarried_of_same rfl (by rw [handleControlWrite_frame])
  case inr.inr.inr.inl => exact ⟨fun _ => rfl, fun hd => (Bool.false_ne_true hd.symm).elim, fun _ _ => hv⟩
  all_goals exact dirtyCarried_of_same rfl rfl

theorem DirtyCarried.trans {s t u : State} (h : DirtyCarried s t) (hvariant : t.cart.variant = s.cart.variant)
    (h2 : DirtyCarried t u) : DirtyCarried s u := by
  obtain ⟨hrise, hram, hbank⟩ := h
  obtain ⟨hrise2, hram2, hbank2⟩ := h2
  have hclear : u.dirty = false → t.dirty = false := fun hu => by
    cases ht : t.dirty with
    | false => rfl
    | true => exact (hrise2 ht).symm.trans hu
  refine ⟨fun hs => hrise2 (hrise hs), fun hu => (hram2 hu).trans (hram (hclear hu)), fun hs hu => ?_⟩
  cases ht : t.dirty with
  | true => exact hbank hs ht
  | false => exact hvariant ▸ hbank2 ht hu

theorem kept_dirtyCarried (s : State) : Kept fun t => SameImmutable s t ∧ DirtyCarried s t where
  regs _ _ ht _ := ht
  asks _ ht := ht
  stores a v ht hw := by
    have hsame := (kept_sameImmutable s).stores a v ht.1 hw
    obtain ⟨⟨hvariant, -⟩, hcarried⟩ := ht
    exact ⟨hsame, hcarried.trans hvariant (dirtyCarried_busWrite hw)⟩
  control _ _ _ ht := ht

/-- Settles O16: each Router write of a call carries the signal on. -/
theorem dirtySignal : Obligations.DirtySignal := by
  unfold Obligations.DirtySignal
  intro s t h
  obtain ⟨-, hcarried⟩ := (kept_dirtyCarried s).reaches (step_next h).reaches
    ⟨sameImmutable_of_reaches .refl, dirtyCarried_of_same rfl rfl⟩
  exact hcarried

/-! ### `IME`, the halted state, the outcomes -/

/-- Settles O17: of an instruction step only the promotion and `RETI` raise `IME`; an idle call and a dispatch never do. -/
theorem imeRises : Obligations.ImeRises := by
  unfold Obligations.ImeRises
  exact fun s t h => (step_next h).ime

theorem idles_iff (s : State) :
    idles s = true ↔ s.runState = .halted ∧ flatByte 0xFF0F s &&& flatByte 0xFFFF s &&& 0x1F = 0 := by
  unfold idles
  rw [Bool.and_eq_true, decide_eq_true_eq, decide_eq_true_eq]
  rfl

/-- Settles O18: a call that is not idle wakes the engine, and only `HALT` halts it again. -/
theorem haltedEntered : Obligations.HaltedEntered := by
  unfold Obligations.HaltedEntered
  intro s t h ht
  exact ((step_next h).halted ht).imp_left (idles_iff s).mp

/-- Settles O7: the first case of the step. -/
theorem haltedIdleStep : Obligations.HaltedIdleStep := by
  unfold Obligations.HaltedIdleStep
  intro s hrun hpending
  exact if_pos ((idles_iff s).mpr ⟨hrun, hpending⟩)

/-- Settles O9: the three outcomes of a call. -/
theorem stepOutcomes : Obligations.StepOutcomes := by
  unfold Obligations.StepOutcomes
  intro s
  have houtcome := step_outcome s
  generalize step s = r at houtcome ⊢
  cases houtcome with
  | next h => exact .inl ⟨_, rfl, h.cost⟩
  | access h => exact .inr (.inr ⟨_, rfl⟩)
  | undefined hruns hpc hop => exact .inr (.inl ⟨_, rfl⟩)

end Sys2Proof.Machine
end

section
/-! The Router's reads and writes window by window, and the Bank Controller behind them (20_memory.md). -/

namespace Sys2Proof.Machine

/-! ### Reads -/

theorem bufferRead_of_answers {sp : Space} {b : Buffer} {i : Nat} (h : ∃ v, bufferRead sp b i = .next v) :
    bufferRead sp b i = .next (loadCell sp b.cells i) :=
  if_pos ((bufferRead_answers_iff sp b i).mp h)

theorem readRamBanked_disabled {c : Cartridge} (a : Nat) (h : c.variant = .noBanking ∨ c.ramEnable = false) :
    readRamBanked c a = .next 0x00 := by
  obtain ⟨-, hread⟩ | ⟨hv, he, -⟩ | ⟨hv, he, -⟩ := readRamBanked_spec c a
  · exact hread
  all_goals simp [hv, he] at h

/-- The RAM window of a cartridge whose RAM is enabled, where a read of it answers (20_memory.md R63, R87). -/
theorem readRamBanked_enabled {c : Cartridge} {a : Nat} (hv : c.variant = .bankSwitching) (he : c.ramEnable = true)
    (h : ∃ v, readRamBanked c a = .next v) :
    readRamBanked c a = .next (loadCell .ram c.ram.cells (ramBankedIndex c a)) := by
  obtain ⟨hoff, -⟩ | ⟨-, -, -, hread⟩ | ⟨-, -, -, hread⟩ := readRamBanked_spec c a
  · simp [hv, he] at hoff
  · simp [hread] at h
  · rw [hread] at h ⊢
    exact bufferRead_of_answers h

/-- Settles O19: in each window the read is that of its row, which answers because the address is readable. -/
theorem routerRead : Obligations.RouterRead := by
  unfold Obligations.RouterRead
  intro s a hread
  rw [readable_iff] at hread
  refine ⟨fun h => ?_, fun h h' hv => ?_, fun h h' hv => ?_, fun h h' hoff => ?_, fun h h' hv he => ?_, fun h => ?_,
    fun h => ?_, fun h => readByte_flat s h⟩
  · rw [readByte_romFixed s h] at hread ⊢
    exact bufferRead_of_answers hread
  · rw [readByte_romSwitch s h h'] at hread ⊢
    simpa only [romBankedIndex, hv] using bufferRead_of_answers hread
  · rw [readByte_romSwitch s h h'] at hread ⊢
    simpa only [romBankedIndex, hv] using bufferRead_of_answers hread
  · rw [readByte_cartRam s h h']
    exact readRamBanked_disabled a.toNat hoff
  · rw [readByte_cartRam s h h'] at hread ⊢
    exact readRamBanked_enabled hv he hread
  · exact ⟨_, readByte_joypad s (by rw [h]; rfl)⟩
  · exact readByte_serial s (by rw [h]; rfl)

/-- Settles O20: a read answers exactly where it is readable, and elsewhere its outcome can only be the fault. -/
theorem readAnswers : Obligations.ReadAnswers := by
  unfold Obligations.ReadAnswers
  refine fun s a => ⟨fun h => ?_, fun h => ?_, afterRead_eq a s⟩
  · obtain ⟨v, hv⟩ := (readable_iff s a).mp h
    exact ⟨v, hv, read_of_readByte a s v hv⟩
  · obtain hv | ⟨k, hk⟩ := readByte_outcome a s
    · exact absurd ((readable_iff s a).mpr hv) (by simp [h])
    · exact ⟨k, hk, by rw [busRead, hk, chain_fault]⟩

/-- Settles O21: a write completes exactly where it is writable, and a completed one has the effect of its window. -/
theorem routerWrite : Obligations.RouterWrite := by
  unfold Obligations.RouterWrite
  refine fun s a v hs => ⟨fun h => ?_, busWrite_faults_of_not_writable v⟩
  obtain ⟨u, hu⟩ := (writable_iff s a v).mp h
  exact ⟨u, hu, storeEffect_of_busWrite hs hu⟩

/-! ### Control writes (R65, R82 to R84) -/

section
variable {c : Cartridge} {a : Nat} (v : Byte) (hv : c.variant = .bankSwitching)
include hv

theorem handleControlWrite_romLow (h : 0x2000 ≤ a) (h' : a < 0x4000) : handleControlWrite c a v = controlRomLow c v := by
  simp only [handleControlWrite, hv, if_neg (Nat.not_lt.mpr h), if_pos h']

theorem handleControlWrite_upper (h : 0x4000 ≤ a) (h' : a < 0x6000) : handleControlWrite c a v = controlUpper c v := by
  simp only [handleControlWrite, hv, if_neg (show ¬a < 0x2000 by omega), if_neg (Nat.not_lt.mpr h), if_pos h']

theorem handleControlWrite_mode (h : 0x6000 ≤ a) : handleControlWrite c a v = controlMode c v := by
  simp only [handleControlWrite, hv, if_neg (show ¬a < 0x2000 by omega), if_neg (show ¬a < 0x4000 by omega),
    if_neg (Nat.not_lt.mpr h)]

end

theorem controlUpper_romBanking {c : Cartridge} (v : Byte) (h : c.bankMode = .romBanking) :
    controlUpper c v = { c with romBank := romBankForced ((c.romBank &&& 0x1F) ||| (v &&& 0xE0)) } := by
  simp only [controlUpper, h]

theorem controlUpper_ramBanking {c : Cartridge} (v : Byte) (h : c.bankMode = .ramBanking) :
    controlUpper c v = { c with ramBank := v.extractLsb' 0 2 } := by
  simp only [controlUpper, h]

theorem controlMode_ram (c : Cartridge) {v : Byte} (h : v.getLsbD 0 = true) :
    controlMode c v = { c with bankMode := .ramBanking, romBank := romBankForced (c.romBank &&& 0x1F) } :=
  if_pos h

theorem controlMode_rom (c : Cartridge) {v : Byte} (h : v.getLsbD 0 = false) :
    controlMode c v = { c with bankMode := .romBanking, ramBank := 0 } :=
  if_neg fun hset => Bool.false_ne_true (h.symm.trans hset)

/-- From `0x2000` on a control write leaves RAM enabled or disabled as it was (R81). -/
theorem handleControlWrite_ramEnable_same {c : Cartridge} {a : Nat} (v : Byte) (h : 0x2000 ≤ a) :
    (handleControlWrite c a v).ramEnable = c.ramEnable := by
  have hlow : ¬a < 0x2000 := by omega
  simp only [handleControlWrite, controlRomLow, controlUpper, controlMode, hlow, if_false]
  repeat' split
  all_goals rfl

/-- Settles O23: a control write is the register update of its range, its mode and its bit 0. -/
theorem bankControlWrites : Obligations.BankControlWrites := by
  unfold Obligations.BankControlWrites
  intro s a v hv h h'
  refine ⟨handleControlWrite s.cart a.toNat v, busWrite_control v s h', ?_, fun hhi => ?_, fun hlo hhi hmode => ?_,
    fun hlo hhi hmode => ?_, fun hlo hbit => ?_, fun hlo hbit => ?_⟩
  · have hframe := handleControlWrite_frame s.cart a.toNat v
    rwa [handleControlWrite_ramEnable_same v h] at hframe
  · rw [handleControlWrite_romLow v hv h hhi]
    exact ⟨rfl, rfl, rfl⟩
  · rw [handleControlWrite_upper v hv hlo hhi, controlUpper_romBanking v hmode]
    exact ⟨rfl, rfl, rfl⟩
  · rw [handleControlWrite_upper v hv hlo hhi, controlUpper_ramBanking v hmode]
    exact ⟨rfl, rfl, rfl⟩
  · rw [handleControlWrite_mode v hv hlo, controlMode_ram _ hbit]
    exact ⟨rfl, rfl, rfl⟩
  · rw [handleControlWrite_mode v hv hlo, controlMode_rom _ hbit]
    exact ⟨rfl, rfl, rfl⟩

/-! ### The No-Banking cartridge (R62 to R65) -/

theorem busWrite_cartRam {a : Word} (v : Byte) (s : State) (h : 0xA000 ≤ a.toNat) (h' : a.toNat < 0xC000) :
    busWrite a v s = writeCartRam a v s := by
  simp only [busWrite, route_cartRam h h']

/-- Settles O24: of both windows the No-Banking row of the controller is the outcome. -/
theorem noBankingCartridge : Obligations.NoBankingCartridge := by
  unfold Obligations.NoBankingCartridge
  refine fun s a v hv => ⟨fun h => ?_, fun h h' => ⟨?_, ?_⟩, fun h h' => ?_⟩
  · rw [busWrite_control v s h]
    simp only [handleControlWrite, hv]
  · rw [busWrite_cartRam v s h h']
    simp only [writeCartRam, writeRamBanked, hv, chain_next]
  · rw [readByte_cartRam s h h']
    exact readRamBanked_disabled a.toNat (.inl hv)
  · rw [readByte_romSwitch s h h']
    simp only [romBankedIndex, hv, bufferRead]

/-! ### Effective banks (R85) -/

theorem effRomBank_of_ne_zero {c : Cartridge} (h : c.romBank.toNat % c.romBankCount ≠ 0) :
    effRomBank c = c.romBank.toNat % c.romBankCount :=
  if_neg h

theorem effRomBank_of_eq_zero {c : Cartridge} (h : c.romBank.toNat % c.romBankCount = 0) : effRomBank c = 1 :=
  if_pos h

/-- The effective ROM bank is never bank 0 and never past the last one. -/
theorem effRomBank_range {c : Cartridge} (h : 2 ≤ c.romBankCount) : 1 ≤ effRomBank c ∧ effRomBank c < c.romBankCount := by
  by_cases h0 : c.romBank.toNat % c.romBankCount = 0
  · rw [effRomBank_of_eq_zero h0]
    omega
  · have hlt : c.romBank.toNat % c.romBankCount < c.romBankCount := Nat.mod_lt _ (by omega)
    rw [effRomBank_of_ne_zero h0]
    omega

theorem effRamBank_lt {c : Cartridge} (h : c.ramBankCount ≠ 0) : effRamBank c < c.ramBankCount :=
  Nat.mod_lt _ (by omega)

/-- Settles O25: remainders are in range, and 1 is below two banks. -/
theorem effectiveBanks : Obligations.EffectiveBanks := by
  unfold Obligations.EffectiveBanks
  intro c hc
  obtain ⟨hpos, hlt⟩ := effRomBank_range hc
  exact ⟨hpos, hlt, effRomBank_of_ne_zero, effRomBank_of_eq_zero, fun h0 => ⟨rfl, effRamBank_lt h0⟩⟩

/-! ### Buffers of the right size hold every bank (R86, R87, R90) -/

section
variable {s : State} (hs : StateOk s = true)
include hs

theorem rom_size_of_stateOk : 2 ≤ s.cart.romBankCount ∧ s.cart.rom.len = s.cart.romBankCount * 0x4000 := by
  simp only [StateOk, Cartridge.ok, Buffer.holds, Bool.and_eq_true, decide_eq_true_eq] at hs
  obtain ⟨⟨-, ⟨hcount, ⟨hlen, -⟩, -⟩, -⟩, -⟩ := hs
  exact ⟨hcount, hlen⟩

theorem ram_size_of_stateOk (hv : s.cart.variant = .bankSwitching) : s.cart.ram.len = s.cart.ramBankCount * 0x2000 := by
  simp only [StateOk, Cartridge.ok, Buffer.holds, hv, Bool.and_eq_true, decide_eq_true_eq] at hs
  obtain ⟨⟨-, -, ⟨⟨hlen, -⟩, -⟩, -⟩, -⟩ := hs
  exact hlen

theorem romBankedIndex_lt {a : Nat} (h : 0x4000 ≤ a) (h' : a < 0x8000) : romBankedIndex s.cart a < s.cart.rom.len := by
  obtain ⟨hcount, hlen⟩ := rom_size_of_stateOk hs
  obtain ⟨-, hlt⟩ := effRomBank_range hcount
  unfold romBankedIndex
  split <;> omega

theorem ramBankedIndex_lt (hv : s.cart.variant = .bankSwitching) (h0 : s.cart.ramBankCount ≠ 0) {a : Nat}
    (h : 0xA000 ≤ a) (h' : a < 0xC000) : ramBankedIndex s.cart a < s.cart.ram.len := by
  have hlt := effRamBank_lt h0
  rw [ram_size_of_stateOk hs hv]
  unfold ramBankedIndex
  omega

end

/-! ### A byte stored in one RAM bank (R88) -/

/-- A write to enabled cartridge RAM inside its buffer (20_memory.md R88, R104). -/
theorem busWrite_storedRam {a : Word} (v : Byte) {s : State} (h : 0xA000 ≤ a.toNat) (h' : a.toNat < 0xC000)
    (hv : s.cart.variant = .bankSwitching) (he : s.cart.ramEnable = true) (h0 : s.cart.ramBankCount ≠ 0)
    (hi : ramBankedIndex s.cart a.toNat < s.cart.ram.len) : busWrite a v s = .next (storedRam a v s) := by
  rw [busWrite_cartRam v s h h', storedRam]
  simp only [writeCartRam, writeRamBanked, hv, he, h0, bufferWrite, hi, chain_next, if_true, if_false]

/-- A read of enabled cartridge RAM inside its buffer (20_memory.md R87). -/
theorem readByte_enabledRam {a : Word} {s : State} (h : 0xA000 ≤ a.toNat) (h' : a.toNat < 0xC000)
    (hv : s.cart.variant = .bankSwitching) (he : s.cart.ramEnable = true) (h0 : s.cart.ramBankCount ≠ 0)
    (hi : ramBankedIndex s.cart a.toNat < s.cart.ram.len) :
    readByte a s = .next (loadCell .ram s.cart.ram.cells (ramBankedIndex s.cart a.toNat)) := by
  rw [readByte_cartRam s h h']
  simp only [readRamBanked, hv, he, h0, bufferRead, hi, if_true, if_false]

/-- Selecting RAM-banking mode (20_memory.md R84). -/
theorem busWrite_selectRamMode {s : State} (hv : s.cart.variant = .bankSwitching) :
    busWrite 0x6000 0x01 s = .next { s with
      cart := { s.cart with bankMode := .ramBanking, romBank := romBankForced (s.cart.romBank &&& 0x1F) } } := by
  rw [busWrite_control 0x01 s (by decide), handleControlWrite_mode 0x01 hv (by decide), controlMode_ram _ (by decide)]

/-- Selecting a RAM bank in RAM-banking mode (20_memory.md R83). -/
theorem busWrite_selectRamBank (v : Byte) {s : State} (hv : s.cart.variant = .bankSwitching)
    (hmode : s.cart.bankMode = .ramBanking) :
    busWrite 0x4000 v s = .next { s with cart := { s.cart with ramBank := v.extractLsb' 0 2 } } := by
  rw [busWrite_control v s (by decide), handleControlWrite_upper v hv (by decide) (by decide),
    controlUpper_ramBanking v hmode]

/-- The cartridge with this RAM bank selected in RAM-banking mode, and its RAM enabled. -/
def ramSelected (bank : BitVec 2) (c : Cartridge) : Cartridge :=
  { c with bankMode := .ramBanking, romBank := romBankForced (c.romBank &&& 0x1F), ramBank := bank, ramEnable := true }

/-- The index of an address of the RAM window, in a selected bank that exists (20_memory.md R85, R87). -/
theorem ramBankedIndex_ramSelected {bank : BitVec 2} {c : Cartridge} (a : Nat) (h : bank.toNat < c.ramBankCount) :
    ramBankedIndex (ramSelected bank c) a = (a - 0xA000) + bank.toNat * 0x2000 := by
  have hbank : effRamBank (ramSelected bank c) = bank.toNat := Nat.mod_eq_of_lt h
  rw [ramBankedIndex, hbank]

/-- Settles O26: offset `0x10` is index `0x2010` in bank 1 and `0x10` in bank 0, and the store at the one leaves the
other. -/
theorem ramBankScenario : Obligations.RamBankScenario := by
  unfold Obligations.RamBankScenario
  intro s hs hv hcount
  have hlen : s.cart.ram.len = s.cart.ramBankCount * 0x2000 := ram_size_of_stateOk hs hv
  have h0 : s.cart.ramBankCount ≠ 0 := by omega
  have hindex1 : ramBankedIndex (ramSelected 1 s.cart) 0xA010 = 0x2010 :=
    ramBankedIndex_ramSelected 0xA010 (show 1 < s.cart.ramBankCount by omega)
  have hindex0 : ramBankedIndex (ramSelected 0 s.cart) 0xA010 = 0x10 :=
    ramBankedIndex_ramSelected 0xA010 (show 0 < s.cart.ramBankCount by omega)
  have hin1 : ramBankedIndex (ramSelected 1 s.cart) 0xA010 < s.cart.ram.len := by omega
  have hin0 : ramBankedIndex (ramSelected 0 s.cart) 0xA010 < s.cart.ram.len := by omega
  refine ⟨_, _, { s with cart := ramSelected 1 s.cart }, _, _, busWrite_selectRamMode hv, busWrite_selectRamBank 0x01 hv rfl,
    busWrite_enables hv (by decide) (by decide), busWrite_storedRam 0x42 (by decide) (by decide) hv rfl h0 hin1, ?_,
    busWrite_selectRamBank 0x00 hv rfl, ?_, rfl⟩
  · refine Eq.trans (readByte_enabledRam (by decide) (by decide) hv rfl h0 hin1) ?_
    exact congrArg _ (loadCell_storeCell_same .ram s.cart.ram.cells 0 _ 0x42 (ram_wf_of_stateOk hs))
  · refine Eq.trans (readByte_enabledRam (by decide) (by decide) hv rfl h0 hin0) ?_
    show Host.Outcome.next (loadCell .ram (storeCell .ram s.cart.ram.cells (ramBankedIndex (ramSelected 1 s.cart) 0xA010) 0x42)
      (ramBankedIndex (ramSelected 0 s.cart) 0xA010)) = _
    rw [hindex0, hindex1, loadCell_storeCell_other _ _ _ _ _ (by decide)]

end Sys2Proof.Machine
end

section
/-! The faults a call can stop with: `BankIndexOutOfRange` needs a cartridge without RAM banks (60_exceptions.md R312), and
`InvalidOpcode` an undefined byte at `PC` (R311). -/

namespace Sys2Proof.Machine

/-! ### `BankIndexOutOfRange` -/

/-- A Bank-Switching cartridge with no RAM banks, and an offset into its RAM window. -/
def MissingRam (c : Cartridge) (k : Nat) : Prop := c.variant = .bankSwitching ∧ c.ramBankCount = 0 ∧ k < 0x2000

theorem bufferRead_fault {sp : Space} {b : Buffer} {i : Nat} {e : Fault} (h : bufferRead sp b i = .fault e) : ¬i < b.len := by
  obtain ⟨-, hread⟩ | ⟨hi, -⟩ := bufferRead_spec sp b i
  · cases hread.symm.trans h
  · exact hi

/-- Under the invariant a buffer read of the ROM stays inside it, so only the RAM window can fault. -/
theorem missingRam_of_readByte {s : State} {a : Word} {k : Nat} (hs : StateOk s = true)
    (h : readByte a s = .fault (.bankIndexOutOfRange k)) : MissingRam s.cart k := by
  obtain ⟨hcount, hlen⟩ := rom_size_of_stateOk hs
  rcases windows a with ha | ⟨ha, ha'⟩ | ⟨ha, ha'⟩ | ha | ha | ha
  · rw [readByte_romFixed s ha] at h
    exact absurd (show a.toNat < s.cart.rom.len by omega) (bufferRead_fault h)
  · rw [readByte_romSwitch s ha ha'] at h
    exact absurd (romBankedIndex_lt hs ha ha') (bufferRead_fault h)
  · rw [readByte_cartRam s ha ha'] at h
    obtain ⟨-, hread⟩ | ⟨hv, -, h0, hread⟩ | ⟨hv, -, h0, hread⟩ := readRamBanked_spec s.cart a.toNat <;> rw [hread] at h
    · cases h
    · obtain rfl := Fault.bankIndexOutOfRange.inj (Host.Outcome.fault.inj h)
      exact ⟨hv, h0, by omega⟩
    · exact absurd (ramBankedIndex_lt hs hv h0 ha ha') (bufferRead_fault h)
  · rw [readByte_joypad s ha] at h
    cases h
  · rw [readByte_serial s ha] at h
    cases h
  · rw [readByte_flat s ha] at h
    cases h

/-- Of all writes only one to the RAM window can fault (20_memory.md R101). -/
theorem window_of_busWrite_fault {s : State} {a : Word} {v : Byte} {e : Fault} (h : busWrite a v s = .fault e) :
    0xA000 ≤ a.toNat ∧ a.toNat < 0xC000 := by
  rcases route_spec a with h' | h' | h' | ⟨ha, ha', -⟩ | h' | h' | h' | h' | h' | h'
  case inr.inr.inr.inl => exact ⟨ha, ha'⟩
  all_goals simp [busWrite, h'] at h

theorem missingRam_of_busWrite {s : State} {a : Word} {v : Byte} {k : Nat} (hs : StateOk s = true)
    (h : busWrite a v s = .fault (.bankIndexOutOfRange k)) : MissingRam s.cart k := by
  obtain ⟨ha, ha'⟩ := window_of_busWrite_fault h
  rw [busWrite_cartRam v s ha ha', writeCartRam, writeRamBanked] at h
  cases hv : s.cart.variant with
  | noBanking => simp [hv] at h
  | bankSwitching =>
    cases he : s.cart.ramEnable with
    | false => simp [hv, he] at h
    | true =>
      by_cases h0 : s.cart.ramBankCount = 0
      · simp only [hv, he, h0, if_true, chain_fault] at h
        obtain rfl := Fault.bankIndexOutOfRange.inj (Host.Outcome.fault.inj h)
        exact ⟨hv, h0, by omega⟩
      · have hi := ramBankedIndex_lt hs hv h0 ha ha'
        simp [hv, he, h0, bufferWrite, hi] at h

/-- Settles O10: every state that a call reaches meets the invariant and has the cartridge's properties, so the access
that faults tells them of the state before the call. -/
theorem bankFaultNeedsMissingRam : Obligations.BankFaultNeedsMissingRam := by
  unfold Obligations.BankFaultNeedsMissingRam
  intro s k hs h
  have houtcome := step_outcome s
  rw [h] at houtcome
  cases houtcome with
  | access hfault =>
    obtain ⟨u, a, hu, haccess⟩ := hfault
    have hok : StateOk u = true := kept_stateOk.reaches hu hs
    obtain ⟨hvariant, -, hcount, -⟩ := sameImmutable_of_reaches hu
    have hmissing : MissingRam u.cart k := by
      obtain hread | ⟨v, hwrite⟩ := haccess
      · exact missingRam_of_readByte hok hread
      · exact missingRam_of_busWrite hok hwrite
    rwa [MissingRam, hvariant, hcount] at hmissing

/-! ### `InvalidOpcode` -/

theorem undefinedBytes_stop {op : Byte} (h : op ∈ undefinedBytes) :
    lengthOf op = 1 ∧ ∀ b1 b2 s, exec (assemble op b1 b2) s = .fault (.invalidOpcode op) := by
  simp only [undefinedBytes, List.mem_cons, List.not_mem_nil, or_false] at h
  rcases h with rfl | rfl | rfl | rfl | rfl | rfl | rfl | rfl | rfl | rfl | rfl <;> exact ⟨rfl, fun _ _ _ => rfl⟩

theorem step_of_runsInstruction {s : State} (h : runsInstruction s = true) : step s = instructionStep (wake s) := by
  simp only [runsInstruction, Bool.and_eq_true, Bool.not_eq_true'] at h
  obtain ⟨hidles, hdispatches⟩ := h
  simp only [step, hidles, hdispatches, Bool.false_eq_true, if_false]

/-- Settles O6: an undefined byte is fetched alone and its meaning is the fault; no other outcome of a call is that
fault. -/
theorem undefinedByteStopsStep : Obligations.UndefinedByteStopsStep := by
  unfold Obligations.UndefinedByteStopsStep
  refine fun s => ⟨fun op hruns hpc hop => ?_, fun op h => ?_⟩
  · obtain ⟨hlength, hexec⟩ := undefinedBytes_stop hop
    have hfetch := fetch8_of_readByte (wake s) op hpc
    rw [step_of_runsInstruction hruns, instructionStep, fetchInstr, hfetch]
    simp only [chain_next, hlength, Nat.sub_self, fetchBytes, hexec, chain_fault]
  · have houtcome := step_outcome s
    rw [h] at houtcome
    cases houtcome with
    | undefined hruns hpc hop => exact ⟨hruns, hpc, hop⟩

end Sys2Proof.Machine
end

section
/-! The bytes at `PC` and the fetch: an instruction step runs what the bytes at `PC` decode to (60_exceptions.md R330 case 3,
10_state.md R24). -/

namespace Sys2Proof.Machine

theorem word_add_one_add (a : Word) (k : Nat) : a + 1 + BitVec.ofNat 16 k = a + BitVec.ofNat 16 (k + 1) := by
  rw [BitVec.ofNat_add, BitVec.add_comm (BitVec.ofNat 16 k), ← BitVec.add_assoc]
  rfl

/-- A read is not changed by an earlier read of another address. -/
theorem readByte_afterRead_of_ne {a b : Word} (s : State) (h : b ≠ a) : readByte b (afterRead a s) = readByte b s := by
  by_cases ha : a.toNat = 0xFF00
  · exact readByte_afterRead a b s fun hb => h (BitVec.eq_of_toNat_eq (hb.trans ha.symm))
  · rw [afterRead_eq_self a s ha]

/-- The bytes behind an address are not changed by a read of it, short of a whole turn of the address space. -/
theorem bytesAt_afterRead {a b : Word} (s : State) (n : Nat) (h : ∀ k, k < n → b + BitVec.ofNat 16 k ≠ a) :
    bytesAt (afterRead a s) b n = bytesAt s b n := by
  induction n generalizing b with
  | zero => rfl
  | succ n ih =>
    have hhead : b ≠ a := by simpa using h 0 (Nat.succ_pos n)
    have htail : ∀ k, k < n → b + 1 + BitVec.ofNat 16 k ≠ a := fun k hk => by
      rw [word_add_one_add]
      exact h (k + 1) (by omega)
    rw [bytesAt, bytesAt, readByte_afterRead_of_ne s hhead, ih htail]

theorem bytesAt_succ {s : State} {a : Word} {n : Nat} {v : Byte} {rest : List Byte}
    (h : bytesAt s a (n + 1) = some (v :: rest)) : readByte a s = .next v ∧ bytesAt s (a + 1) n = some rest := by
  rw [bytesAt] at h
  split at h
  next hread hrest =>
    cases h
    exact ⟨hread, hrest⟩
  · cases h

theorem bytesAt_setPc (s : State) (a v : Word) (n : Nat) : bytesAt (s.setPc v) a n = bytesAt s a n := by
  induction n generalizing a with
  | zero => rfl
  | succ n ih => rw [bytesAt, bytesAt, ih, readByte_setPc]

theorem bytesAt_wake (s : State) (a : Word) (n : Nat) : bytesAt (wake s) a n = bytesAt s a n := by
  induction n generalizing a with
  | zero => rfl
  | succ n ih => rw [bytesAt, bytesAt, ih, readByte_wake]

theorem afterReads_setPc (a v : Word) (n : Nat) (s : State) : afterReads a n (s.setPc v) = (afterReads a n s).setPc v := by
  induction n generalizing a s with
  | zero => rfl
  | succ n ih => rw [afterReads, afterReads, afterRead_setPc, ih]

/-- The state in which `n` bytes from `PC` on have been read. -/
def advanced (n : Nat) (s : State) : State :=
  (afterReads s.regs.pc n s).setPc (s.regs.pc + BitVec.ofNat 16 n)

theorem advanced_zero (s : State) : advanced 0 s = s := by
  simp [advanced, afterReads, State.setPc]

/-- `Fetch8` moves on by one byte, whatever is fetched after it. -/
theorem advanced_succ (n : Nat) (s : State) :
    advanced n ((afterRead s.regs.pc s).setPc (s.regs.pc + 1)) = advanced (n + 1) s := by
  simp only [advanced, State.setPc_regs, afterReads_setPc, word_add_one_add]
  rfl

/-- Fetching reads the bytes at `PC`, fewer than the address space has. -/
theorem fetchBytes_of_bytesAt {s : State} {bytes : List Byte} (hlen : bytes.length < 0x10000)
    (h : bytesAt s s.regs.pc bytes.length = some bytes) :
    fetchBytes bytes.length s = .next (bytes, advanced bytes.length s) := by
  induction bytes generalizing s with
  | nil => rw [List.length_nil, advanced_zero, fetchBytes]
  | cons v rest ih =>
    rw [List.length_cons] at hlen
    obtain ⟨hv, hrest⟩ := bytesAt_succ h
    have hne : ∀ k, k < rest.length → s.regs.pc + 1 + BitVec.ofNat 16 k ≠ s.regs.pc := fun k hk => by bv_omega
    have hrest' : bytesAt ((afterRead s.regs.pc s).setPc (s.regs.pc + 1)) (s.regs.pc + 1) rest.length = some rest := by
      rw [bytesAt_setPc, bytesAt_afterRead s _ hne, hrest]
    rw [List.length_cons, fetchBytes, fetch8_of_readByte s v hv, chain_next, ih (by omega) hrest', chain_next, advanced_succ]

/-- Fetching an instruction is fetching its bytes: the first, then as many as it asks for. -/
theorem fetchInstr_eq_of_fetchBytes {s t : State} {op : Byte} {tail : List Byte} (hlen : tail.length = lengthOf op - 1)
    (h : fetchBytes (tail.length + 1) s = .next (op :: tail, t)) :
    fetchInstr s = .next (assemble op (tail.getD 0 0) (tail.getD 1 0), t) := by
  obtain ⟨⟨v, u⟩, hfetch, h⟩ := chain_eq_next.mp h
  obtain ⟨⟨bytes, u'⟩, hrest, h⟩ := chain_eq_next.mp h
  cases h
  rw [fetchInstr, hfetch, chain_next, ← hlen, hrest, chain_next]

/-- Where the bytes at `PC` decode to `i` and nothing is left of them, an instruction step fetches `i`. -/
theorem fetchInstr_of_decode {s : State} {bytes : List Byte} {i : Instr}
    (hbytes : bytesAt s s.regs.pc bytes.length = some bytes) (hi : decode bytes = .ok (i, [])) :
    fetchInstr s = .next (i, advanced bytes.length s) := by
  obtain ⟨op, tail, rfl, hlen, rfl, hrest⟩ := decode_ok _ _ _ hi
  have hdrop : tail.length ≤ lengthOf op - 1 := List.drop_eq_nil_iff.mp hrest.symm
  have hshort : (op :: tail).length < 0x10000 := by
    have := lengthOf_cases op
    rw [List.length_cons]
    omega
  exact fetchInstr_eq_of_fetchBytes (by omega) (fetchBytes_of_bytesAt hshort hbytes)

/-- Settles O5: the fetch gives the instruction and the state past its bytes, and the rest of the call is the promotion. -/
theorem stepRunsDecoded : Obligations.StepRunsDecoded := by
  unfold Obligations.StepRunsDecoded
  intro s bytes i hruns hbytes hi
  have hfetch : fetchInstr (wake s) = .next (i, fetched bytes.length s) :=
    fetchInstr_of_decode ((bytesAt_wake s _ _).trans hbytes) hi
  have hstep : step s = chain (exec i (fetched bytes.length s)) fun u => .next (promote s.imePending u) := by
    rw [step_of_runsInstruction hruns, instructionStep, hfetch, chain_next, wake_imePending]
  refine ⟨fun u hu => ?_, fun e he => ?_⟩
  · rw [hstep, hu, chain_next]
    simp only [promote, Bool.and_eq_true]
  · rw [hstep, he, chain_fault]

end Sys2Proof.Machine
end

section
/-! Taking an interrupt and returning from one (60_exceptions.md R331, R334; 45_control_flow.md R290). -/

namespace Sys2Proof.Machine

/-! ### The lowest pending bit (R321) -/

/-- `b` is the lowest request that is enabled (R320, R321). -/
structure LowestPending (s : State) (b : Nat) : Prop where
  isSet : (pending s).getLsbD b = true
  lower : ∀ k, k < b → (pending s).getLsbD k = false

/-- `pending` has five bits (R320). -/
theorem pending_bit_lt {s : State} {b : Nat} (h : (pending s).getLsbD b = true) : b < 5 := by
  unfold pending at h
  rw [BitVec.getLsbD_and, Bool.and_eq_true] at h
  obtain ⟨-, hmask⟩ := h
  have hmask5 : ∀ b, b < 8 → (0x1F#8).getLsbD b = true → b < 5 := by decide
  exact hmask5 b (BitVec.lt_of_getLsbD hmask) hmask

theorem LowestPending.lowestBit_eq {s : State} {b : Nat} (h : LowestPending s b) : lowestBit (pending s) = b := by
  have hset := h.isSet
  have hlower := h.lower
  have hb := pending_bit_lt hset
  unfold lowestBit
  interval_cases b <;> simp only [hset, hlower, Nat.reduceLT, Bool.false_eq_true, if_true, if_false]

theorem exists_lowestPending {s : State} (h : pending s ≠ 0) : ∃ b, LowestPending s b := by
  have hbit : ∃ b, (pending s).getLsbD b = true := by
    by_contra hnone
    refine h (BitVec.eq_of_getLsbD_eq fun i _ => ?_)
    simpa using fun hi => hnone ⟨i, hi⟩
  exact ⟨Nat.find hbit, Nat.find_spec hbit, fun k hk => by simpa using Nat.find_min hbit hk⟩

theorem LowestPending.pending_ne_zero {s : State} {b : Nat} (h : LowestPending s b) : pending s ≠ 0 := by
  intro h0
  have hset := h.isSet
  simp [h0] at hset

/-! ### Entry (R330 case 2, R331) -/

/-- With `IME` set and a request pending the call takes the interrupt. -/
theorem step_of_dispatch {s : State} (hime : s.ime = true) (h : pending s ≠ 0) : step s = takeInterrupt (wake s) := by
  simp only [step, idles, dispatches, hime, h, decide_false, decide_true, ne_eq, not_false_eq_true, Bool.and_false,
    Bool.and_true, Bool.false_eq_true, if_false, if_true]

/-- The state when the push of an entry begins. -/
def entered (b : Nat) (s : State) : State := acknowledge b (wake s)

theorem flatByte_entered_if {b : Nat} {s : State} (hs : StateOk s = true) :
    flatByte 0xFF0F (entered b s) = flatByte 0xFF0F s &&& ~~~(1#8 <<< b) :=
  loadCell_storeCell_same .flat s.flat 0 _ _ (flat_wf_of_stateOk hs)

theorem flatByte_entered_other {a : Word} (b : Nat) (s : State) (ha : a ≠ 0xFF0F) :
    flatByte a (entered b s) = flatByte a s :=
  loadCell_storeCell_other .flat s.flat _ _ _ (mt BitVec.eq_of_toNat_eq ha)

theorem stateOk_entered (b : Nat) {s : State} (hs : StateOk s = true) : StateOk (entered b s) = true :=
  kept_stateOk.reaches ((reaches_wake s).trans (reaches_acknowledge b _)) hs

/-- Taking the interrupt of bit `b`. -/
theorem LowestPending.takeInterrupt_eq {s : State} {b : Nat} (h : LowestPending s b) :
    takeInterrupt (wake s) = chain (push16 s.regs.pc (entered b s)) fun u => .next ((u.setPc (vector b)).took 20) := by
  have hb : lowestBit (pending (wake s)) = b := h.lowestBit_eq
  simp only [takeInterrupt, hb, entered, wake_regs]

/-- Settles O8: the entry is the acknowledgement and one push, with its effect or its fault. -/
theorem interruptEntry : Obligations.InterruptEntry := by
  unfold Obligations.InterruptEntry
  intro s b hs hime hset hlower
  have hpending : LowestPending s b := ⟨hset, hlower⟩
  have hstep := (step_of_dispatch hime hpending.pending_ne_zero).trans hpending.takeInterrupt_eq
  refine ⟨fun hp => ?_, fun hp => ?_⟩
  · have hp' : Pushable (entered b s) = true := hp
    obtain ⟨u, heffect, hregs, hpush⟩ := push16_completes s.regs.pc (stateOk_entered b hs) hp'
    refine ⟨entered b s, u, rfl, flatByte_entered_if hs, fun _ => flatByte_entered_other b s, heffect, ?_⟩
    rw [hstep, hpush, chain_next]
    simp only [State.setSp, State.setPc, State.took, hregs]
    rfl
  · have hp' : Pushable (entered b s) = false := hp
    obtain ⟨k, hk⟩ := push16_stops s.regs.pc hp'
    exact ⟨k, by rw [hstep, hk, chain_fault]⟩

/-! ### Return (R334) -/

theorem PopsBytes.exec_reti {s base : State} {hi lo : Byte} (h : PopsBytes s base hi lo) :
    exec .reti s = .next { base with
      regs := { s.regs with sp := s.regs.sp + 2, pc := hi ++ lo }, ime := true, cycles := 16 } := by
  have hret : execRet s = _ := h.returnTaking_eq 16
  show execReti s = _
  rw [execReti_eq, hret, chain_next]
  rfl

/-! ### The round trip, for a stack in work RAM or above it, below the I/O page -/

/-- What a store from `0xC000` to `0xFEFF` did, read from its effect. -/
theorem StoreEffect.of_above_cartRam {s u : State} {a : Word} {v : Byte} (h : StoreEffect s u a v) (ha : 0xC000 ≤ a.toNat)
    (ha' : a.toNat < 0xFF00) :
    u = { s with flat := u.flat } ∧ flatByte a u = v ∧ ∀ b, b ≠ a → flatByte b u = flatByte b s := by
  obtain ⟨hline, hother, -, -⟩ := h
  rw [if_neg (by omega), if_neg (by omega), if_neg (by omega), if_pos ha'] at hline
  exact ⟨hline.1, hline.2, hother⟩

/-- A push onto such a stack leaves its two bytes in the flat array, and nothing else changes. -/
theorem PushEffect.of_above_cartRam {s u : State} {v : Word} (h : PushEffect s u v) (hlo : 0xC002 ≤ s.regs.sp.toNat)
    (hhi : s.regs.sp.toNat ≤ 0xFF00) :
    u = { s with flat := u.flat } ∧ flatByte (s.regs.sp - 1) u = hiByte v ∧ flatByte (s.regs.sp - 2) u = loByte v := by
  obtain ⟨m, hm, hu⟩ := h
  obtain ⟨hmeq, hmbyte, -⟩ := hm.of_above_cartRam (by bv_omega) (by bv_omega)
  obtain ⟨hueq, hubyte, huother⟩ := hu.of_above_cartRam (by bv_omega) (by bv_omega)
  refine ⟨?_, (huother _ (by bv_omega)).trans hmbyte, hubyte⟩
  rw [hueq, hmeq]

/-- A pop from such a stack gives the two bytes in the flat array. -/
theorem popsBytes_above_cartRam {s : State} (hlo : 0xC000 ≤ s.regs.sp.toNat) (hhi : s.regs.sp.toNat < 0xFEFF) :
    PopsBytes s (afterRead (s.regs.sp + 1) (afterRead s.regs.sp s)) (flatByte (s.regs.sp + 1) s) (flatByte s.regs.sp s) :=
  ⟨readByte_flat s (by unfold InFlat; omega),
    by rw [readByte_flat _ (by unfold InFlat; bv_omega), flatByte_afterRead], rfl⟩

/-- Settles O58: the entry leaves the two bytes of `PC` below the old `SP`, and `RETI` pops them from there. -/
theorem interruptRoundTrip : Obligations.InterruptRoundTrip := by
  unfold Obligations.InterruptRoundTrip
  intro s t hs hime hpending hlo hhi hstep
  obtain ⟨b, hb⟩ := exists_lowestPending hpending
  obtain ⟨hcompletes, hstops⟩ := interruptEntry s b hs hime hb.isSet hb.lower
  cases hp : Pushable s with
  | false =>
    obtain ⟨k, hk⟩ := hstops hp
    cases hstep.symm.trans hk
  | true =>
    obtain ⟨q, u, hq, -, -, hpush, hnext⟩ := hcompletes hp
    obtain rfl := Host.Outcome.next.inj (hstep.symm.trans hnext)
    have hregs : q.regs = s.regs := by rw [hq]
    have hcart : q.cart = s.cart := by rw [hq]
    obtain ⟨hu, hhigh, hlow⟩ := hpush.of_above_cartRam (by rwa [hregs]) (by rwa [hregs])
    rw [hregs] at hhigh hlow
    have hucart : u.cart = s.cart := by rw [hu, hcart]
    have hsub : s.regs.sp - 2 + 1 = s.regs.sp - 1 := by bv_omega
    have hadd : s.regs.sp - 2 + 2 = s.regs.sp := by bv_omega
    have hpc : (flatByte (s.regs.sp - 2 + 1) u ++ flatByte (s.regs.sp - 2) u : Word) = s.regs.pc := by
      rw [hsub, hhigh, hlow]
      exact joinBytes_hiByte_loByte s.regs.pc
    refine ⟨_, (popsBytes_above_cartRam ?_ ?_).exec_reti, ?_, rfl, ?_⟩
    · show 0xC000 ≤ (s.regs.sp - 2).toNat
      bv_omega
    · show (s.regs.sp - 2).toNat < 0xFEFF
      bv_omega
    · show { s.regs with
        sp := s.regs.sp - 2 + 2, pc := flatByte (s.regs.sp - 2 + 1) u ++ flatByte (s.regs.sp - 2) u } = s.regs
      rw [hadd, hpc]
    · show (afterRead _ (afterRead _ _)).cart = s.cart
      rw [afterRead_cart, afterRead_cart]
      exact hucart

end Sys2Proof.Machine

namespace Sys2Proof.Interrupt

open Machine

/-- Settles O57: `RETI` is `RET` with `IME` set. -/
theorem returnFromInterrupt : Obligations.ReturnFromInterrupt := by
  unfold Obligations.ReturnFromInterrupt
  refine ⟨decodes_one _ _ rfl fun _ _ => rfl, fun s => ⟨fun hp => ?_, fun hp => ?_⟩⟩
  · obtain ⟨base, hi, lo, hpops⟩ := popsBytes_of_poppable hp
    exact ⟨base, hi, lo, hpops, hpops.exec_reti⟩
  · obtain ⟨k, hk⟩ := pop16_stops hp
    have hret : execRet s = _ := returnTaking_of_fault 16 hk
    exact ⟨k, show execReti s = _ by rw [execReti_eq, hret, chain_fault]⟩

end Sys2Proof.Interrupt
end

section
/-! Load and power-on (20_memory.md R70 to R77; 70_reset_and_hazards.md R360 to R362). -/

namespace Sys2Proof.Machine

/-- The smallest ROM of the default table has two banks (20_memory.md R74). -/
theorem romBankTable_ge {b : Byte} {n : Nat} (h : Machine.romBankTable b = some n) : 2 ≤ n := by
  unfold Machine.romBankTable at h
  split at h <;> cases h <;> decide

/-- Settles O28: the header lies inside an image of 32 KiB, and the tables' smallest ROM has that size. -/
theorem loadBuildsCartridge : Obligations.LoadBuildsCartridge := by
  unfold Obligations.LoadBuildsCartridge
  intro raw v romBanks ramBanks hv hrom hram hlen
  have hbanks : 2 ≤ romBanks := romBankTable_ge hrom
  refine ⟨freshCartridge v romBanks ramBanks raw none, load_eq_next.mpr ⟨v, romBanks, ramBanks, ?_, hv, hrom, hram, hlen,
    by omega, rfl, rfl⟩, rfl, rfl, rfl, rfl, rfl, rfl, rfl, rfl, ?_, ?_⟩
  · show 0x0149 < raw.len
    omega
  · rintro rfl
    rfl
  · rintro rfl
    exact ⟨rfl, fun _ => rfl⟩

/-! ### The invariant at power-on -/

theorem wfFrom_filter_rom (m : Memory) (lo : Nat) (h : Memory.wfFrom .rom lo m = true) :
    Memory.wfFrom .flat lo (m.filter fun cell => decide (cell.1 < 0x8000)) = true := by
  induction m generalizing lo with
  | nil => rfl
  | cons cell rest ih =>
    obtain ⟨k, v⟩ := cell
    simp only [Memory.wfFrom, Bool.and_eq_true, decide_eq_true_eq] at h
    obtain ⟨⟨hlo, hv⟩, hrest⟩ := h
    by_cases hk : k < 0x8000
    · have hsame : unlisted .flat k = unlisted .rom k := if_neg (by omega)
      simp only [List.filter_cons, hk, decide_true, if_true, Memory.wfFrom, Bool.and_eq_true, decide_eq_true_eq]
      exact ⟨⟨hlo, hsame ▸ hv⟩, ih (k + 1) hrest⟩
    · simp only [List.filter_cons, hk, decide_false, Bool.false_eq_true, if_false]
      exact wfFrom_mono .flat _ (k + 1) lo (by omega) (ih (k + 1) hrest)

theorem below_filter (m : Memory) : Memory.below 0x8000 (m.filter fun cell => decide (cell.1 < 0x8000)) = true := by
  simp [Memory.below]

theorem below_mono {m : Memory} {n n' : Nat} (hn : n ≤ n') (h : Memory.below n m = true) : Memory.below n' m = true := by
  simp only [Memory.below, List.all_eq_true, decide_eq_true_eq] at h ⊢
  exact fun cell hcell => Nat.lt_of_lt_of_le (h cell hcell) hn

theorem powerOn_flat (p : Params) (c : Cartridge) : (powerOn p c).flat = initialFlat p c := by
  rw [powerOn]

/-- The flat array of power-on is canonical, whatever the table of the I/O page. -/
theorem initialFlat_ok (p : Params) {c : Cartridge} (h : c.rom.cells.wf .rom = true) :
    (initialFlat p c).wf .flat = true ∧ (initialFlat p c).below 0x10000 = true := by
  unfold initialFlat
  refine List.foldlRecOn (motive := fun m : Memory => m.wf .flat = true ∧ m.below 0x10000 = true) _ _
    ⟨wfFrom_filter_rom _ 0 h, below_mono (by decide) (below_filter _)⟩ ?_
  rintro m ⟨hwf, hbelow⟩ i hi
  have hlt : i < 0x100 := List.mem_range.mp hi
  exact ⟨wf_storeCell _ _ _ _ hwf, below_storeCell _ _ _ _ _ (by omega) hbelow⟩

theorem holds_initialRam {ramBanks : Nat} {save : Option Buffer} (hsave : saveLengthOk ramBanks save = true)
    (hcells : ∀ b, save = some b → b.cells.wf .ram = true ∧ b.cells.below b.len = true) :
    (initialRam .bankSwitching ramBanks save).holds .ram (ramBanks * 0x2000) = true := by
  cases save with
  | none => simp [initialRam, Buffer.holds, Memory.wf, Memory.wfFrom, Memory.below]
  | some b =>
    obtain ⟨hwf, hbelow⟩ := hcells b rfl
    have hlen : b.len = ramBanks * 0x2000 := decide_eq_true_eq.mp hsave
    rw [hlen] at hbelow
    simp only [initialRam, Buffer.holds, hlen, hwf, hbelow, decide_true, Bool.and_true]

theorem freshCartridge_ok {v : Variant} {romBanks ramBanks : Nat} {raw : Buffer} {save : Option Buffer}
    (hwf : raw.cells.wf .rom = true) (hbelow : raw.cells.below raw.len = true) (hlen : raw.len = romBanks * 0x4000)
    (hmin : 0x8000 ≤ raw.len) (hsave : saveLengthOk ramBanks save = true)
    (hcells : ∀ b, save = some b → b.cells.wf .ram = true ∧ b.cells.below b.len = true) :
    (freshCartridge v romBanks ramBanks raw save).ok = true := by
  have hrom : raw.holds .rom (romBanks * 0x4000) = true := by
    simp only [Buffer.holds, ← hlen, hwf, hbelow, decide_true, Bool.and_true]
  have hcount : 2 ≤ romBanks := by omega
  cases v with
  | noBanking =>
    have hram : (initialRam .noBanking ramBanks save).holds .ram 0 = true := rfl
    simp only [Cartridge.ok, freshCartridge, hcount, hrom, hram, decide_true, Bool.and_true]
  | bankSwitching =>
    have hram := holds_initialRam hsave hcells
    have hregs : bankRegsOk (freshCartridge .bankSwitching romBanks ramBanks raw save) = true := rfl
    simp only [freshCartridge] at hregs
    simp only [Cartridge.ok, freshCartridge, hcount, hrom, hram, hregs, decide_true, Bool.and_true]

theorem stateOk_intro {s : State} (hwf : s.flat.wf .flat = true) (hbelow : s.flat.below 0x10000 = true)
    (hcart : s.cart.ok = true) (hf : s.regs.f &&& 0x0F = 0) : StateOk s = true := by
  simp only [StateOk, hwf, hbelow, hcart, hf, decide_true, Bool.and_true]

/-- Settles O14: what `load` accepts is a fresh cartridge under the launch premises, and the boot window and the table of
the I/O page are stored in canonical form. -/
theorem powerOnInv : Obligations.PowerOnInv := by
  unfold Obligations.PowerOnInv
  intro p raw save c hwf hbelow hcells hload
  obtain ⟨v, romBanks, ramBanks, -, -, -, -, hlen, hmin, hsave, rfl⟩ := load_eq_next.mp hload
  obtain ⟨hflat, hflatBelow⟩ := initialFlat_ok p (c := freshCartridge v romBanks ramBanks raw save) hwf
  have hcart : (freshCartridge v romBanks ramBanks raw save).ok = true :=
    freshCartridge_ok hwf hbelow hlen hmin hsave hcells
  rw [← powerOn_flat] at hflat hflatBelow
  have hf : Regs.reset.f &&& 0x0F = 0 := by decide
  exact stateOk_intro hflat hflatBelow hcart hf

/-! ### The bytes of `flat` at power-on -/

/-- Storing what an unlisted address reads as, above every listed one, lists nothing. -/
theorem storeCell_unlisted {sp : Space} {m : Memory} {a : Nat} (h : m.below a = true) :
    storeCell sp m a (unlisted sp a) = m := by
  induction m with
  | nil => exact if_pos rfl
  | cons cell rest ih =>
    obtain ⟨k, v⟩ := cell
    simp only [Memory.below, List.all_cons, Bool.and_eq_true, decide_eq_true_eq] at h
    obtain ⟨hk, hrest⟩ := h
    rw [storeCell, if_neg (by omega), if_neg (by omega), ih hrest]

/-- With the default table the I/O page lists nothing: its bytes are those of unlisted addresses (R362). -/
theorem initialFlat_spec (c : Cartridge) :
    initialFlat Params.spec c = c.rom.cells.filter fun cell => decide (cell.1 < 0x8000) := by
  refine List.foldl_fixed' (fun i => ?_) _
  have hdefault : Params.spec.ioDefaults (0xFF00 + i) = unlisted .flat (0xFF00 + i) := (if_pos (by omega)).symm
  rw [hdefault]
  exact storeCell_unlisted (below_mono (by omega) (below_filter _))

theorem loadCell_filter_low (m : Memory) {a : Nat} (h : a < 0x8000) :
    loadCell .flat (m.filter fun cell => decide (cell.1 < 0x8000)) a = loadCell .rom m a := by
  induction m with
  | nil => exact if_neg (by omega)
  | cons cell rest ih =>
    obtain ⟨k, v⟩ := cell
    by_cases hk : k < 0x8000
    · simp only [List.filter_cons, hk, decide_true, if_true, loadCell, ih]
    · have hne : k ≠ a := by omega
      simp only [List.filter_cons, hk, decide_false, Bool.false_eq_true, if_false, loadCell, hne, ih]

/-- At and above every listed address a store reads as unlisted. -/
theorem loadCell_above {sp : Space} {m : Memory} {n a : Nat} (hm : m.below n = true) (h : n ≤ a) :
    loadCell sp m a = unlisted sp a := by
  induction m with
  | nil => rfl
  | cons cell rest ih =>
    obtain ⟨k, v⟩ := cell
    simp only [Memory.below, List.all_cons, Bool.and_eq_true, decide_eq_true_eq] at hm
    obtain ⟨hk, hrest⟩ := hm
    rw [loadCell, if_neg (by omega), ih hrest]

theorem flatByte_powerOn_low {a : Word} (c : Cartridge) (h : a.toNat < 0x8000) :
    flatByte a (powerOn Params.spec c) = readBootWindow c a.toNat := by
  rw [flatByte, powerOn_flat, initialFlat_spec]
  exact loadCell_filter_low _ h

theorem flatByte_powerOn_high {a : Word} (c : Cartridge) (h : 0x8000 ≤ a.toNat) :
    flatByte a (powerOn Params.spec c) = unlisted .flat a.toNat := by
  rw [flatByte, powerOn_flat, initialFlat_spec]
  exact loadCell_above (below_filter _) h

/-- Settles O29: the registers are the literal of reset; `flat` lists the boot window alone. -/
theorem powerOnValues : Obligations.PowerOnValues := by
  unfold Obligations.PowerOnValues
  refine fun c => ⟨rfl, rfl, rfl, rfl, rfl, rfl, rfl, rfl, fun a => ⟨flatByte_powerOn_low c, fun h h' => ?_, fun h => ?_⟩⟩
  · exact (flatByte_powerOn_high c h).trans (if_neg (by omega))
  · exact (flatByte_powerOn_high c (by omega)).trans (if_pos (by omega))

end Sys2Proof.Machine
end

section
/-! The moves of the other agents: the flush, the environment's request, the frame (60_exceptions.md R322;
70_reset_and_hazards.md R390 to R392). -/

namespace Sys2Proof.Machine

theorem exportRam_bankSwitching {c : Cartridge} (h : c.variant = .bankSwitching) :
    exportRam c = bytesOfBuffer .ram c.ram := by
  simp only [exportRam, h]

/-- Settles O30: the flush looks at `dirty` and the collaborator's answer; the export lists the RAM buffer in order. -/
theorem persistenceFlush : Obligations.PersistenceFlush := by
  unfold Obligations.PersistenceFlush
  refine fun p s => ⟨fun hd => ⟨if_pos hd, rfl, rfl, if_pos hd⟩, fun hd r => ?_, fun hv => ?_, fun hv => ?_⟩
  · have hclear : ¬s.dirty = true := by simp [hd]
    cases r with
    | ok =>
      have hsame : { s with dirty := false } = s := by rw [← hd]
      exact ⟨if_neg hclear, congrArg _ hsame, rfl⟩
    | ioError => exact ⟨if_neg hclear, rfl, if_neg hclear⟩
  · rw [exportRam_bankSwitching hv]
    exact ⟨by simp [bytesOfBuffer], fun k hk => by simp [bytesOfBuffer, hk]⟩
  · simp only [exportRam, hv]

/-- Settles O31: the request is one store in `flat`, at `IF`. -/
theorem environmentRequest : Obligations.EnvironmentRequest := by
  unfold Obligations.EnvironmentRequest
  intro p m s hs
  refine ⟨envRequest m s, rfl, rfl, ?_, fun a ha => ?_⟩
  · exact loadCell_storeCell_same .flat s.flat 0 _ _ (flat_wf_of_stateOk hs)
  · exact loadCell_storeCell_other .flat s.flat _ _ _ (mt BitVec.eq_of_toNat_eq ha)

/-! ### The frame -/

/-- A frame that begins within 24 cycles past its budget, with fuel for every cycle that is missing, ends so too: a step
costs at least 4 cycles and at most 24. -/
theorem runFrameFrom_budget {p : Params} {fuel count n : Nat} {s t : State} (hfuel : frameBudget p ≤ count + fuel)
    (hcount : count ≤ frameBudget p + 23) (h : runFrameFrom p fuel count s = .next (n, t)) :
    frameBudget p ≤ n ∧ n ≤ frameBudget p + 23 := by
  induction fuel generalizing count s with
  | zero =>
    cases h
    exact ⟨hfuel, hcount⟩
  | succ fuel ih =>
    rw [runFrameFrom] at h
    split at h
    next hlt =>
      obtain ⟨u, hu, h⟩ := chain_eq_next.mp h
      have hcost := (step_next hu).cost
      have hrange : ∀ n ∈ costs, 4 ≤ n ∧ n ≤ 24 := by decide
      obtain ⟨hmin, hmax⟩ := hrange _ hcost
      exact ih (by omega) (by omega) h
    next hge =>
      cases h
      exact ⟨Nat.le_of_not_lt hge, hcount⟩

end Sys2Proof.Machine

namespace Sys2Proof.Frame

open Machine

/-- Settles O32: the two budgets by division; a frame starts at 0 with as much fuel as its budget. -/
theorem frameBudget : Obligations.FrameBudget := by
  unfold Obligations.FrameBudget
  exact ⟨by decide, by decide, fun p s t n h => runFrameFrom_budget (by omega) (by omega) h⟩

end Sys2Proof.Frame
end

section
/-! The register file (10_state.md R21, R22) and processor control (46_cpu_control.md). -/

namespace Sys2Proof.Machine

/-- Writing `AF` keeps the low four bits of `F` zero (10_state.md R22). -/
theorem setAf_af (w : Word) (g : Regs) : (g.setAf w).af = w &&& 0xFFF0 := by
  have hmask : (0xFFF0 : Word) = joinBytes 0xFF 0xF0 := rfl
  have hall : hiByte w &&& 0xFF = hiByte w := BitVec.and_allOnes
  calc (g.setAf w).af
    _ = joinBytes (hiByte w &&& 0xFF) (loByte w &&& 0xF0) := by rw [hall]; rfl
    _ = joinBytes (hiByte w) (loByte w) &&& joinBytes 0xFF 0xF0 := (BitVec.and_append).symm
    _ = w &&& 0xFFF0 := by rw [joinBytes_hiByte_loByte, hmask]

/-- Settles O33: the views of the pairs are the joins of their bytes, and the parts of a word join to it. -/
theorem registerFile : Obligations.RegisterFile := by
  unfold Obligations.RegisterFile
  intro g r v w
  exact ⟨Regs.get8_set8_same r v g, fun x hx => Regs.get8_set8_other r x v g hx, Regs.set8_f r v g, Regs.set8_sp r v g,
    Regs.set8_pc r v g, rfl, rfl, rfl, rfl, joinBytes_hiByte_loByte w, joinBytes_hiByte_loByte w,
    joinBytes_hiByte_loByte w, setAf_af w g⟩

/-- Settles O60: each meaning is one update of the state. -/
theorem processorControl : Obligations.ProcessorControl := by
  unfold Obligations.ProcessorControl
  exact ⟨decodes_one _ _ rfl fun _ _ => rfl, fun _ => decodes_two _ _ _ rfl fun _ => rfl,
    decodes_one _ _ rfl fun _ _ => rfl, decodes_one _ _ rfl fun _ _ => rfl, fun s t => ⟨rfl, rfl, rfl, rfl⟩⟩

end Sys2Proof.Machine
end
